-- ==== Sys2Proof/Word.lean ====
section
/-! DEFINITION. The bit-vector types of the machine (00_scope.md R4, R8). -/

namespace Sys2Proof

/-- The contents of W, of a file register, of an 8-bit literal: u8. -/
abbrev Byte := BitVec 8

/-- A value of the program counter: u13 (10_state.md R13). -/
abbrev ProgAddr := BitVec 13

/-- An instruction word: u14 (30_encoding.md R60). -/
abbrev InstrWord := BitVec 14

/-- The file-address field `f` of an instruction: u7 (30_encoding.md R66). -/
abbrev FileAddr := BitVec 7

/-- An effective data address `bank : location`: u8 (20_memory.md R41). -/
abbrev DataAddr := BitVec 8

end Sys2Proof
end

