-- ==== Sys2Proof/Syntax.lean ====
section
/-! DEFINITION. The instructions: one constructor per row of spec/opcode_table.json. -/

namespace Sys2Proof

/-- The destination select `d` (00_scope.md section 6): 0 stores the result in W, 1 in the file
register `f`. -/
inductive Dest where
  | w
  | f
  deriving DecidableEq, Repr

/-- An instruction with its operands (30_encoding.md R66, R67). Every value of every field is legal
(R73). TRIS has two rows of the table, hence two constructors (90_conflicts.md C16). -/
inductive Instr where
  | addwf (f : FileAddr) (d : Dest)
  | andwf (f : FileAddr) (d : Dest)
  | clrf (f : FileAddr)
  | clrw
  | comf (f : FileAddr) (d : Dest)
  | decf (f : FileAddr) (d : Dest)
  | decfsz (f : FileAddr) (d : Dest)
  | incf (f : FileAddr) (d : Dest)
  | incfsz (f : FileAddr) (d : Dest)
  | iorwf (f : FileAddr) (d : Dest)
  | movf (f : FileAddr) (d : Dest)
  | movwf (f : FileAddr)
  | nop
  | rlf (f : FileAddr) (d : Dest)
  | rrf (f : FileAddr) (d : Dest)
  | subwf (f : FileAddr) (d : Dest)
  | swapf (f : FileAddr) (d : Dest)
  | xorwf (f : FileAddr) (d : Dest)
  | bcf (f : FileAddr) (b : BitVec 3)
  | bsf (f : FileAddr) (b : BitVec 3)
  | btfsc (f : FileAddr) (b : BitVec 3)
  | btfss (f : FileAddr) (b : BitVec 3)
  | addlw (k : Byte)
  | andlw (k : Byte)
  | call (k : BitVec 11)
  | clrwdt
  | goto (k : BitVec 11)
  | iorlw (k : Byte)
  | movlw (k : Byte)
  | retfie
  | retlw (k : Byte)
  | ret
  | sleep
  | sublw (k : Byte)
  | xorlw (k : Byte)
  | option
  | trisA
  | trisB
  deriving DecidableEq, Repr

end Sys2Proof
end

