-- ==== Sys2Proof/Decode.lean ====
section
/-! DEFINITION. Decoding and encoding of the 14-bit instruction word (30_encoding.md R60 to R70). -/

namespace Sys2Proof

/-- A word that no row of the opcode map matches (30_encoding.md R69 less the three words of R70). -/
inductive DecodeError where
  | unassigned (iw : InstrWord)
  deriving DecidableEq, Repr

/-! ## Fields (R66) -/

def fieldD (iw : InstrWord) : Dest := if iw.getLsbD 7 then .f else .w
def fieldF (iw : InstrWord) : FileAddr := iw.extractLsb' 0 7
def fieldB (iw : InstrWord) : BitVec 3 := iw.extractLsb' 7 3
def fieldK8 (iw : InstrWord) : Byte := iw.extractLsb' 0 8
def fieldK11 (iw : InstrWord) : BitVec 11 := iw.extractLsb' 0 11

/-! ## Decoding (R67, R68, R70) -/

/-- The space `00 0000 0xxx xxxx`: NOP with its don't-care bits 6:5, and the words without operand. -/
def decodeControl (iw : InstrWord) : Except DecodeError Instr :=
  match (iw.extractLsb' 0 7).toNat with
  | 0x00 => .ok .nop
  | 0x20 => .ok .nop
  | 0x40 => .ok .nop
  | 0x60 => .ok .nop
  | 0x08 => .ok .ret
  | 0x09 => .ok .retfie
  | 0x62 => .ok .option
  | 0x63 => .ok .sleep
  | 0x64 => .ok .clrwdt
  | 0x65 => .ok .trisA
  | 0x66 => .ok .trisB
  | _ => .error (.unassigned iw)

/-- The byte-oriented group, bits 13:12 = 00. -/
def decodeByte (iw : InstrWord) : Except DecodeError Instr :=
  match (iw.extractLsb' 8 4).toNat with
  | 0x0 => match fieldD iw with
    | .f => .ok (.movwf (fieldF iw))
    | .w => decodeControl iw
  | 0x1 => match fieldD iw with
    | .f => .ok (.clrf (fieldF iw))
    | .w => .ok .clrw
  | 0x2 => .ok (.subwf (fieldF iw) (fieldD iw))
  | 0x3 => .ok (.decf (fieldF iw) (fieldD iw))
  | 0x4 => .ok (.iorwf (fieldF iw) (fieldD iw))
  | 0x5 => .ok (.andwf (fieldF iw) (fieldD iw))
  | 0x6 => .ok (.xorwf (fieldF iw) (fieldD iw))
  | 0x7 => .ok (.addwf (fieldF iw) (fieldD iw))
  | 0x8 => .ok (.movf (fieldF iw) (fieldD iw))
  | 0x9 => .ok (.comf (fieldF iw) (fieldD iw))
  | 0xA => .ok (.incf (fieldF iw) (fieldD iw))
  | 0xB => .ok (.decfsz (fieldF iw) (fieldD iw))
  | 0xC => .ok (.rrf (fieldF iw) (fieldD iw))
  | 0xD => .ok (.rlf (fieldF iw) (fieldD iw))
  | 0xE => .ok (.swapf (fieldF iw) (fieldD iw))
  | 0xF => .ok (.incfsz (fieldF iw) (fieldD iw))
  | _ => .error (.unassigned iw)

/-- The bit-oriented group, bits 13:12 = 01. -/
def decodeBit (iw : InstrWord) : Except DecodeError Instr :=
  match (iw.extractLsb' 10 2).toNat with
  | 0 => .ok (.bcf (fieldF iw) (fieldB iw))
  | 1 => .ok (.bsf (fieldF iw) (fieldB iw))
  | 2 => .ok (.btfsc (fieldF iw) (fieldB iw))
  | 3 => .ok (.btfss (fieldF iw) (fieldB iw))
  | _ => .error (.unassigned iw)

/-- CALL and GOTO, bits 13:12 = 10. -/
def decodeJump (iw : InstrWord) : Except DecodeError Instr :=
  if iw.getLsbD 11 then .ok (.goto (fieldK11 iw)) else .ok (.call (fieldK11 iw))

/-- The literal group, bits 13:12 = 11, with the don't-care bits of MOVLW, RETLW, SUBLW, ADDLW. -/
def decodeLiteral (iw : InstrWord) : Except DecodeError Instr :=
  match (iw.extractLsb' 8 4).toNat with
  | 0x0 => .ok (.movlw (fieldK8 iw))
  | 0x1 => .ok (.movlw (fieldK8 iw))
  | 0x2 => .ok (.movlw (fieldK8 iw))
  | 0x3 => .ok (.movlw (fieldK8 iw))
  | 0x4 => .ok (.retlw (fieldK8 iw))
  | 0x5 => .ok (.retlw (fieldK8 iw))
  | 0x6 => .ok (.retlw (fieldK8 iw))
  | 0x7 => .ok (.retlw (fieldK8 iw))
  | 0x8 => .ok (.iorlw (fieldK8 iw))
  | 0x9 => .ok (.andlw (fieldK8 iw))
  | 0xA => .ok (.xorlw (fieldK8 iw))
  | 0xC => .ok (.sublw (fieldK8 iw))
  | 0xD => .ok (.sublw (fieldK8 iw))
  | 0xE => .ok (.addlw (fieldK8 iw))
  | 0xF => .ok (.addlw (fieldK8 iw))
  | _ => .error (.unassigned iw)

/-- The decoder: total on all 16384 words (R67). -/
def decode (iw : InstrWord) : Except DecodeError Instr :=
  match (iw.extractLsb' 12 2).toNat with
  | 0 => decodeByte iw
  | 1 => decodeBit iw
  | 2 => decodeJump iw
  | _ => decodeLiteral iw

/-! ## Encoding: the assembler's word, every don't-care bit 0 (R68) -/

def Dest.bit : Dest → BitVec 1
  | .w => 0#1
  | .f => 1#1

/-- Byte-oriented format (R61): OPCODE, d, f. -/
def byteWord (op : BitVec 6) (d : BitVec 1) (f : FileAddr) : InstrWord := op ++ d ++ f

/-- Bit-oriented format (R62): OPCODE, b, f. -/
def bitWord (op : BitVec 4) (b : BitVec 3) (f : FileAddr) : InstrWord := op ++ b ++ f

/-- Literal format (R63): OPCODE, k. -/
def literalWord (op : BitVec 6) (k : Byte) : InstrWord := op ++ k

/-- CALL and GOTO format (R64): OPCODE, k. -/
def jumpWord (op : BitVec 3) (k : BitVec 11) : InstrWord := op ++ k

/-- The canonical word of an instruction (R67, R68). -/
def encode : Instr → InstrWord
  | .addwf f d => byteWord 0b000111 d.bit f
  | .andwf f d => byteWord 0b000101 d.bit f
  | .clrf f => byteWord 0b000001 1 f
  | .clrw => byteWord 0b000001 0 0
  | .comf f d => byteWord 0b001001 d.bit f
  | .decf f d => byteWord 0b000011 d.bit f
  | .decfsz f d => byteWord 0b001011 d.bit f
  | .incf f d => byteWord 0b001010 d.bit f
  | .incfsz f d => byteWord 0b001111 d.bit f
  | .iorwf f d => byteWord 0b000100 d.bit f
  | .movf f d => byteWord 0b001000 d.bit f
  | .movwf f => byteWord 0b000000 1 f
  | .nop => byteWord 0b000000 0 0
  | .rlf f d => byteWord 0b001101 d.bit f
  | .rrf f d => byteWord 0b001100 d.bit f
  | .subwf f d => byteWord 0b000010 d.bit f
  | .swapf f d => byteWord 0b001110 d.bit f
  | .xorwf f d => byteWord 0b000110 d.bit f
  | .bcf f b => bitWord 0b0100 b f
  | .bsf f b => bitWord 0b0101 b f
  | .btfsc f b => bitWord 0b0110 b f
  | .btfss f b => bitWord 0b0111 b f
  | .addlw k => literalWord 0b111110 k
  | .andlw k => literalWord 0b111001 k
  | .call k => jumpWord 0b100 k
  | .clrwdt => 0b00000001100100
  | .goto k => jumpWord 0b101 k
  | .iorlw k => literalWord 0b111000 k
  | .movlw k => literalWord 0b110000 k
  | .retfie => 0b00000000001001
  | .retlw k => literalWord 0b110100 k
  | .ret => 0b00000000001000
  | .sleep => 0b00000001100011
  | .sublw k => literalWord 0b111100 k
  | .xorlw k => literalWord 0b111010 k
  | .option => 0b00000001100010
  | .trisA => 0b00000001100101
  | .trisB => 0b00000001100110

/-! ## The opcode map as masks and matches (R67, R70) -/

/-- A row of the opcode map: the word `iw` is the row's instruction iff `iw & mask = match`. -/
structure OpcodeRow where
  mask : InstrWord
  pattern : InstrWord
  deriving DecidableEq, Repr

/-- Whether a word belongs to a row (R67). -/
def OpcodeRow.matches (r : OpcodeRow) (iw : InstrWord) : Bool := iw &&& r.mask == r.pattern

/-- The row of the opcode map an instruction belongs to. -/
def Instr.row : Instr → OpcodeRow
  | .addwf _ _ => ⟨0x3F00, 0x0700⟩
  | .andwf _ _ => ⟨0x3F00, 0x0500⟩
  | .clrf _ => ⟨0x3F80, 0x0180⟩
  | .clrw => ⟨0x3F80, 0x0100⟩
  | .comf _ _ => ⟨0x3F00, 0x0900⟩
  | .decf _ _ => ⟨0x3F00, 0x0300⟩
  | .decfsz _ _ => ⟨0x3F00, 0x0B00⟩
  | .incf _ _ => ⟨0x3F00, 0x0A00⟩
  | .incfsz _ _ => ⟨0x3F00, 0x0F00⟩
  | .iorwf _ _ => ⟨0x3F00, 0x0400⟩
  | .movf _ _ => ⟨0x3F00, 0x0800⟩
  | .movwf _ => ⟨0x3F80, 0x0080⟩
  | .nop => ⟨0x3F9F, 0x0000⟩
  | .rlf _ _ => ⟨0x3F00, 0x0D00⟩
  | .rrf _ _ => ⟨0x3F00, 0x0C00⟩
  | .subwf _ _ => ⟨0x3F00, 0x0200⟩
  | .swapf _ _ => ⟨0x3F00, 0x0E00⟩
  | .xorwf _ _ => ⟨0x3F00, 0x0600⟩
  | .bcf _ _ => ⟨0x3C00, 0x1000⟩
  | .bsf _ _ => ⟨0x3C00, 0x1400⟩
  | .btfsc _ _ => ⟨0x3C00, 0x1800⟩
  | .btfss _ _ => ⟨0x3C00, 0x1C00⟩
  | .addlw _ => ⟨0x3E00, 0x3E00⟩
  | .andlw _ => ⟨0x3F00, 0x3900⟩
  | .call _ => ⟨0x3800, 0x2000⟩
  | .clrwdt => ⟨0x3FFF, 0x0064⟩
  | .goto _ => ⟨0x3800, 0x2800⟩
  | .iorlw _ => ⟨0x3F00, 0x3800⟩
  | .movlw _ => ⟨0x3C00, 0x3000⟩
  | .retfie => ⟨0x3FFF, 0x0009⟩
  | .retlw _ => ⟨0x3C00, 0x3400⟩
  | .ret => ⟨0x3FFF, 0x0008⟩
  | .sleep => ⟨0x3FFF, 0x0063⟩
  | .sublw _ => ⟨0x3E00, 0x3C00⟩
  | .xorlw _ => ⟨0x3F00, 0x3A00⟩
  | .option => ⟨0x3FFF, 0x0062⟩
  | .trisA => ⟨0x3FFF, 0x0065⟩
  | .trisB => ⟨0x3FFF, 0x0066⟩

/-- The instruction the decoder reads from a table word: one 14-bit word, so a word with a bit set
above bit 13 is none (R60). -/
def decodeTableWord (nbits w : Nat) : Option Instr :=
  let bits := w % 2 ^ nbits
  if bits < 2 ^ 14 then
    match decode (BitVec.ofNat 14 bits) with
    | .ok i => some i
    | .error _ => none
  else none

end Sys2Proof
end

