-- ==== Sys2Proof/Config.lean ====
section
/-! DEFINITION. What an implementation fixes (00_scope.md R5) and the free values (`draw(T)` of
00_scope.md R9). -/

namespace Sys2Proof

/-- PROG_WORDS: implemented words of program memory; the fetch address is `pc mod PROG_WORDS`
(20_memory.md R40, D2). PRESUMED, log entry 7. -/
def Config.progWords : Nat := 1024

/-- RESET_VECTOR: pc after any reset (00_scope.md R5, D4). PRESUMED, log entry 7. -/
def Config.resetVector : ProgAddr := 0x0000

/-- INT_VECTOR: pc after interrupt entry (60_exceptions.md R146, D5). PRESUMED, log entry 7. -/
def Config.intVector : ProgAddr := 0x0004

/-- STACK_DEPTH: return-address slots (10_state.md R19, D6). PRESUMED, log entry 3. -/
def Config.stackDepth : Nat := 8

/-- What an unprogrammed program word or configuration word reads as (70_reset_and_hazards.md R171).
Log entry 8. -/
def Config.unprogrammed : InstrWord := 0x3FFF

/-- FREE VALUE: what the environment answers to a read of the peripheral register at data address
`reg`, which last was given `held`, at draw number `n` (92_eei_decisions.md D22). DESIGN CHOICE,
log entries 11 and 12. -/
opaque Config.envByte (reg : DataAddr) (held : Byte) (n : Nat) : Byte

/-- FREE VALUE: a byte the rules call unknown (92_eei_decisions.md D12, D27), draw number `n`.
DESIGN CHOICE, log entries 14 and 15. -/
opaque Config.unknownByte (n : Nat) : Byte

/-- FREE VALUE: the unknown contents of a return-stack slot after power is applied during a run
(70_reset_and_hazards.md R171), draw number `n`. DESIGN CHOICE, log entry 14. -/
opaque Config.unknownAddr (n : Nat) : ProgAddr

end Sys2Proof
end

