-- ==== Sys2Proof/Machine/State.lean ====
section
/-! DEFINITION. The state of the machine (10_state.md), the reasons a step can stop, and the machine
right after Power-on Reset (70_reset_and_hazards.md R171). -/

namespace Sys2Proof.Machine

/-- The register an effective data address reaches (10_state.md R24, 20_memory.md R44). `gpr l` is the
general-purpose byte GPR[l]. -/
inductive FileReg where
  | indf
  | tmr0
  | optionReg
  | pcl
  | status
  | fsr
  | portA
  | trisA
  | portB
  | trisB
  | eedata
  | eecon1
  | eeadr
  | eecon2
  | pclath
  | intcon
  | gpr (l : FileAddr)
  | unimplemented
  deriving DecidableEq, Repr

/-- The recorded write of a byte to a peripheral register (92_eei_decisions.md D22). -/
structure OutputEvent where
  reg : FileReg
  value : Byte
  deriving DecidableEq, Repr

/-- The resets ENV can raise (70_reset_and_hazards.md R170): power applied, external RESET between two
instructions, external RESET that cuts the coming instruction short (R172, D27). -/
inductive ResetEvent where
  | powerOn
  | external
  | externalCut
  deriving DecidableEq, Repr

/-- What ENV does at one instruction boundary (00_scope.md R5 `ENV`, 92_eei_decisions.md D18, D22, D27;
log entry 9). A field left at its default does nothing. -/
structure EnvInput where
  /-- a reset (R170) -/
  reset : Option ResetEvent := none
  /-- the event WdtTimeout (60_exceptions.md R153); without effect while WDTE = 0 -/
  wdtTimeout : Bool := false
  /-- the selected edge on RB0/INT: sets INTF (R143) -/
  intEdge : Bool := false
  /-- Timer0 overflow: sets T0IF (R143); not in SLEEP (R161) -/
  tmr0Overflow : Bool := false
  /-- a PORTB change: sets RBIF (R143) -/
  portBChange : Bool := false
  /-- the end of an EEPROM write cycle: sets EEIF (R143) -/
  eepromDone : Bool := false
  /-- new levels on PORTA's pins (10_state.md R27) -/
  pinsA : Option (BitVec 5) := none
  /-- new levels on PORTB's pins (10_state.md R27) -/
  pinsB : Option Byte := none
  /-- the watchdog has counted to this value (20_memory.md R52) -/
  wdt : Option Byte := none
  /-- the prescaler has counted to this value (20_memory.md R52) -/
  prescaler : Option Byte := none
  deriving DecidableEq, Repr

/-- The boundary at which ENV does nothing. -/
def EnvInput.quiet : EnvInput := {}

/-- The return stack (10_state.md R19): the slots of the chip's circular buffer, the top first, and how
many of them are live, the |STACK| of the rule (log entry 3). -/
structure Stack where
  slots : List ProgAddr
  live : Nat
  deriving DecidableEq, Repr

/-- General-purpose data memory (20_memory.md R44): GPR[l] under the address l, in canonical form. -/
abbrev Memory := List Host.Cell

/-- Program memory (20_memory.md R40): words under their addresses, in canonical form. -/
abbrev Program := List (Nat × InstrWord)

/-- Everything the spec gives the machine; one field per line of INVENTORY.md, section State. -/
structure State where
  /-- W, R10 -/
  w : Byte
  /-- the program counter, R13 -/
  pc : ProgAddr
  /-- STATUS = IRP RP1 RP0 TO PD Z DC C, R15 -/
  status : Byte
  /-- the return stack, R19 -/
  stack : Stack
  /-- PCLATH, R20 -/
  pclath : BitVec 5
  /-- FSR, R21 -/
  fsr : Byte
  /-- INTCON, GIE in bit 7, R22, R34 -/
  intcon : Byte
  /-- OPTION_REG, R35 -/
  optionReg : Byte
  /-- TMR0, what it was last given, R28 -/
  tmr0 : Byte
  /-- PORTA's data latch, R27 -/
  portA : BitVec 5
  /-- PORTB's data latch, R27 -/
  portB : Byte
  /-- the levels on PORTA's pins, R27 -/
  pinsA : BitVec 5
  /-- the levels on PORTB's pins, R27 -/
  pinsB : Byte
  /-- TRISA, R24 -/
  trisA : BitVec 5
  /-- TRISB, R24 -/
  trisB : Byte
  /-- EEDATA, what it was last given, R24 -/
  eedata : Byte
  /-- EEADR, what it was last given, R24 -/
  eeadr : Byte
  /-- EECON1 = EEIF WRERR WREN WR RD, R24 -/
  eecon1 : BitVec 5
  /-- the watchdog counter, R25 -/
  wdt : Byte
  /-- the prescaler count, R25 -/
  prescaler : Byte
  /-- SLEEPING, R26 -/
  sleeping : Bool
  /-- woken from SLEEP, the instruction after SLEEP not yet begun, 60_exceptions.md R161 (log entry 16) -/
  resuming : Bool
  /-- the general-purpose registers, R11 -/
  gpr : Memory
  /-- program memory, 20_memory.md R40 -/
  prog : Program
  /-- the configuration word, R23 -/
  configWord : InstrWord
  /-- the recorded writes to peripheral registers, newest first, D22 -/
  outputs : List OutputEvent
  /-- what ENV does at the coming boundaries; none listed: nothing (log entry 9) -/
  env : List EnvInput
  /-- the model's own: the number of the next free value (log entry 11) -/
  draws : Nat
  deriving DecidableEq, Repr

/-- The machine stops with a fault: never. The machine raises no synchronous exception
(60_exceptions.md R140), and every data and program address exists (R58, R40), so the type is empty.
Safe. -/
inductive Fault where
  deriving DecidableEq, Repr

/-- The model has no step. -/
inductive Refusal where
  /-- Raised by an arm of `exec` for an instruction that has no meaning yet. Safe. No arm raises it. -/
  | notModelled (mnemonic : String)
  /-- Raised by `step` at the fetch of a word no row of the opcode map matches (30_encoding.md R69,
  92_eei_decisions.md D10). Safe: the spec says of what the chip does only that it is unknown. -/
  | unassignedWord (iw : InstrWord)
  deriving DecidableEq, Repr

/-- The machine right after Power-on Reset (70_reset_and_hazards.md R171), ENV quiet. The values R171
calls unknown are 0: DESIGN CHOICE, log entries 1, 2, 4, 10. -/
def State.reset : State where
  w := 0
  pc := Config.resetVector
  status := 0b00011000
  stack := { slots := List.replicate Config.stackDepth 0, live := 0 }
  pclath := 0
  fsr := 0
  intcon := 0
  optionReg := 0xFF
  tmr0 := 0
  portA := 0
  portB := 0
  pinsA := 0
  pinsB := 0
  trisA := 0x1F
  trisB := 0xFF
  eedata := 0
  eeadr := 0
  eecon1 := 0
  wdt := 0
  prescaler := 0
  sleeping := false
  resuming := false
  gpr := []
  prog := []
  configWord := Config.unprogrammed
  outputs := []
  env := []
  draws := 0

/-! The updates the operations are built from; their field lemmas are in Laws/State.lean. -/

def State.setW (s : State) (v : Byte) : State := { s with w := v }
def State.setPc (s : State) (a : ProgAddr) : State := { s with pc := a }
def State.setStatus (s : State) (v : Byte) : State := { s with status := v }
def State.setStack (s : State) (k : Stack) : State := { s with stack := k }
def State.setIntcon (s : State) (v : Byte) : State := { s with intcon := v }
def State.setGpr (s : State) (m : Memory) : State := { s with gpr := m }
def State.setSleeping (s : State) (b : Bool) : State := { s with sleeping := b }
def State.setResuming (s : State) (b : Bool) : State := { s with resuming := b }
def State.setEnv (s : State) (l : List EnvInput) : State := { s with env := l }
def State.setDraws (s : State) (n : Nat) : State := { s with draws := n }

end Sys2Proof.Machine
end

