-- ==== Sys2Proof/Machine/Flags.lean ====
section
/-! DEFINITION. The arithmetic, the flags it computes, and the write rules of STATUS
(40_byte_oriented.md R80, R81; 10_state.md R16 to R18). -/

namespace Sys2Proof.Machine

/-- The flags an instruction affects with the values it computes: the `aff` and `fl` of WriteDest
(40_byte_oriented.md R82). `none`: not affected. -/
structure FlagUpdate where
  z : Option Bool := none
  dc : Option Bool := none
  c : Option Bool := none
  deriving DecidableEq, Repr

/-- `aff = {}`. -/
def FlagUpdate.isEmpty (u : FlagUpdate) : Bool := u.z.isNone && u.dc.isNone && u.c.isNone

/-- No flag affected. -/
def FlagUpdate.keep : FlagUpdate := {}

/-- Z affected: 1 iff the result is 0. -/
def FlagUpdate.zero (r : Byte) : FlagUpdate := { z := some (r == 0) }

/-- C affected, as by the rotates. -/
def FlagUpdate.carry (c : Bool) : FlagUpdate := { c := some c }

/-- The bits Z, DC, C of STATUS after an update: the affected ones take the computed value, the others
keep theirs. -/
def FlagUpdate.bits (u : FlagUpdate) (st : Byte) : BitVec 3 :=
  BitVec.ofBool (u.z.getD (st.getLsbD 2)) ++ BitVec.ofBool (u.dc.getD (st.getLsbD 1)) ++
    BitVec.ofBool (u.c.getD (st.getLsbD 0))

/-- STATUS after its flags are updated as a side effect. -/
def FlagUpdate.apply (u : FlagUpdate) (st : Byte) : Byte := st.extractLsb' 3 5 ++ u.bits st

/-- STATUS written with `v` by an instruction that affects no flag (10_state.md R17): bits 7:5 and 2:0
are stored, TO and PD are not writable. -/
def statusWritePlain (v st : Byte) : Byte :=
  v.extractLsb' 5 3 ++ st.extractLsb' 3 2 ++ v.extractLsb' 0 3

/-- STATUS written with `v` by an instruction that affects a flag (10_state.md R18): bits 7:5 are
stored, the flags follow device logic. -/
def statusWriteFlags (v : Byte) (u : FlagUpdate) (st : Byte) : Byte :=
  v.extractLsb' 5 3 ++ st.extractLsb' 3 2 ++ u.bits st

/-- STATUS as the destination of a result (40_byte_oriented.md R82). -/
def statusWrite (v : Byte) (u : FlagUpdate) (st : Byte) : Byte :=
  if u.isEmpty then statusWritePlain v st else statusWriteFlags v u st

/-- STATUS with TO and PD set by the hardware (10_state.md R29). -/
def statusTimePower (timeOut powerDown : Bool) (st : Byte) : Byte :=
  st.extractLsb' 5 3 ++ BitVec.ofBool timeOut ++ BitVec.ofBool powerDown ++ st.extractLsb' 0 3

/-- A result with the flags it computes. -/
structure AluResult where
  value : Byte
  flags : FlagUpdate
  deriving DecidableEq, Repr

/-- The sum of two bytes and a carry-in with the carries out of bits 7 and 3, in 9 and 5 bits. -/
def sumWithCarries (a b : Byte) (carryIn : Bool) : AluResult :=
  let s : BitVec 9 := a.setWidth 9 + b.setWidth 9 + (BitVec.ofBool carryIn).setWidth 9
  let lo : BitVec 5 :=
    (a.extractLsb' 0 4).setWidth 5 + (b.extractLsb' 0 4).setWidth 5 +
      (BitVec.ofBool carryIn).setWidth 5
  let r : Byte := s.setWidth 8
  { value := r
    flags := { z := some (r == 0), dc := some (lo.getLsbD 4), c := some (s.getLsbD 8) } }

/-- `Add8` (40_byte_oriented.md R80), with Z. -/
def add8 (a b : Byte) : AluResult := sumWithCarries a b false

/-- `Sub8` (40_byte_oriented.md R81): a + ~b + 1 in 9 bits, so C and DC are not-borrow; with Z. -/
def sub8 (a b : Byte) : AluResult := sumWithCarries a (~~~b) true

/-- A result that affects Z only. -/
def zResult (r : Byte) : AluResult := { value := r, flags := .zero r }

/-- A result that affects no flag. -/
def plainResult (r : Byte) : AluResult := { value := r, flags := .keep }

/-- The rotation of C : v to the left (40_byte_oriented.md R99, D14). -/
def rotateLeft (v : Byte) (c : Bool) : AluResult :=
  { value := v.extractLsb' 0 7 ++ BitVec.ofBool c, flags := .carry (v.getLsbD 7) }

/-- The rotation of C : v to the right (40_byte_oriented.md R100, D14). -/
def rotateRight (v : Byte) (c : Bool) : AluResult :=
  { value := BitVec.ofBool c ++ v.extractLsb' 1 7, flags := .carry (v.getLsbD 0) }

/-- The nibbles exchanged (40_byte_oriented.md R102). -/
def swapNibbles (v : Byte) : Byte := v.extractLsb' 0 4 ++ v.extractLsb' 4 4

/-- The byte with only bit `b` set. -/
def bitMask (b : BitVec 3) : Byte := 1#8 <<< b.toNat

/-- The byte with bit `b` cleared (41_bit_oriented.md R111). -/
def clearBit (v : Byte) (b : BitVec 3) : Byte := v &&& ~~~(bitMask b)

/-- The byte with bit `b` set (41_bit_oriented.md R112). -/
def setBit (v : Byte) (b : BitVec 3) : Byte := v ||| bitMask b

/-- Bit `b` of the byte. -/
def testBit (v : Byte) (b : BitVec 3) : Bool := v.getLsbD b.toNat

/-- STATUS.C, the bit a rotate takes in. -/
def State.carry (s : State) : Bool := s.status.getLsbD 0

end Sys2Proof.Machine
end

