-- ==== Sys2Proof/Machine/Cells.lean ====
section
/-! DEFINITION. Lists of (address, value) cells in canonical form: addresses strictly rising, no entry
equal to what an unlisted address reads as. -/

namespace Sys2Proof.Machine

variable {β : Type}

/-- What the address `a` reads as; `d` where nothing is listed. -/
def cellRead (d : β) : List (Nat × β) → Nat → β
  | [], _ => d
  | (k, v) :: rest, a => if k = a then v else cellRead d rest a

/-- The list without its entries at `a`. -/
def cellErase : List (Nat × β) → Nat → List (Nat × β)
  | [], _ => []
  | (k, v) :: rest, a => if k = a then cellErase rest a else (k, v) :: cellErase rest a

/-- The list with `(a, v)` before the first greater address. -/
def cellInsert : List (Nat × β) → Nat → β → List (Nat × β)
  | [], a, v => [(a, v)]
  | (k, w) :: rest, a, v =>
    if a < k then (a, v) :: (k, w) :: rest else (k, w) :: cellInsert rest a v

/-- The list after the write of `v` at `a`; writing the unlisted value removes the entry. -/
def cellWrite [DecidableEq β] (d : β) (m : List (Nat × β)) (a : Nat) (v : β) : List (Nat × β) :=
  if v = d then cellErase m a else cellInsert (cellErase m a) a v

/-- Every listed address is greater than `a`, and the addresses rise strictly from there on. -/
def cellsRiseFrom : Nat → List (Nat × β) → Bool
  | _, [] => true
  | a, (k, _) :: rest => a < k && cellsRiseFrom k rest

/-- The addresses rise strictly. -/
def cellsRise : List (Nat × β) → Bool
  | [] => true
  | (k, _) :: rest => cellsRiseFrom k rest

/-- The canonical form. -/
def cellsWf [DecidableEq β] (d : β) (m : List (Nat × β)) : Bool :=
  cellsRise m && m.all fun c => c.2 != d

/-- What a general-purpose byte reads as that nothing has written: 0. DESIGN CHOICE, log entry 2. -/
def Memory.unlisted : Byte := 0

/-- One byte of general-purpose data memory. -/
def Memory.read (m : Memory) (a : Nat) : Byte := cellRead Memory.unlisted m a

/-- General-purpose data memory after the write of one byte. -/
def Memory.write (m : Memory) (a : Nat) (v : Byte) : Memory := cellWrite Memory.unlisted m a v

/-- Data memory is in canonical form and lists nothing outside 0Ch to 4Fh (20_memory.md R44). -/
def Memory.wf (m : Memory) : Bool :=
  cellsWf Memory.unlisted m && m.all fun c => 0x0C ≤ c.1 && c.1 ≤ 0x4F

/-- One word of program memory; an unlisted word is unprogrammed (70_reset_and_hazards.md R171). -/
def Program.read (p : Program) (a : Nat) : InstrWord := cellRead Config.unprogrammed p a

/-- Program memory after an external programmer wrote one word. -/
def Program.write (p : Program) (a : Nat) (v : InstrWord) : Program :=
  cellWrite Config.unprogrammed p a v

/-- Program memory is in canonical form and lists implemented addresses only (20_memory.md R40). -/
def Program.wf (p : Program) : Bool :=
  cellsWf Config.unprogrammed p && p.all fun c => c.1 < Config.progWords

end Sys2Proof.Machine
end

