-- ==== Sys2Proof/Machine/Operands.lean ====
section
/-! DEFINITION. From the operand `f` to a register: banking, indirection, the register map
(20_memory.md R42 to R45, R58; 10_state.md R24). -/

namespace Sys2Proof.Machine

/-- STATUS.RP0, the bank select of direct addressing (10_state.md R15). -/
def State.rp0 (s : State) : Bool := s.status.getLsbD 5

/-- `EA_direct` (20_memory.md R42): RP0 : f; RP1 has no effect. -/
def eaDirect (f : FileAddr) (s : State) : DataAddr := BitVec.ofBool s.rp0 ++ f

/-- `EA_indirect` (20_memory.md R43): FSR; IRP has no effect. -/
def eaIndirect (s : State) : DataAddr := s.fsr

/-- `EA(f)` (20_memory.md R43): the file address 00h is INDF and redirects through FSR. PRESUMED, log
entry 5. -/
def ea (f : FileAddr) (s : State) : DataAddr := if f = 0 then eaIndirect s else eaDirect f s

/-- The special-function registers by location and bank (10_state.md R24). PRESUMED, log entry 5. -/
def sfrMap (l : Nat) (bank1 : Bool) : FileReg :=
  match l with
  | 0x00 => .indf
  | 0x01 => if bank1 then .optionReg else .tmr0
  | 0x02 => .pcl
  | 0x03 => .status
  | 0x04 => .fsr
  | 0x05 => if bank1 then .trisA else .portA
  | 0x06 => if bank1 then .trisB else .portB
  | 0x08 => if bank1 then .eecon1 else .eedata
  | 0x09 => if bank1 then .eecon2 else .eeadr
  | 0x0A => .pclath
  | 0x0B => .intcon
  | _ => .unimplemented

/-- The data memory map (20_memory.md R44, R45, R58): the register at an effective address. -/
def resolve (a : DataAddr) : FileReg :=
  let l : FileAddr := a.extractLsb' 0 7
  if l.toNat < 0x0C then sfrMap l.toNat (a.getLsbD 7)
  else if l.toNat ≤ 0x4F then .gpr l
  else .unimplemented

/-- The register the operand `f` denotes. -/
def target (f : FileAddr) (s : State) : FileReg := resolve (ea f s)

/-- The registers whose reads are drawn from the environment (92_eei_decisions.md D22; log entries 11
and 12). -/
def FileReg.drawn : FileReg → Bool
  | .tmr0 => true
  | .eedata => true
  | .eeadr => true
  | .eecon1 => true
  | .eecon2 => true
  | _ => false

/-- The registers whose writes are recorded as output events (10_state.md R24, D22). -/
def FileReg.recorded : FileReg → Bool
  | .tmr0 => true
  | .optionReg => true
  | .portA => true
  | .portB => true
  | .trisA => true
  | .trisB => true
  | .eedata => true
  | .eeadr => true
  | .eecon1 => true
  | .eecon2 => true
  | _ => false

end Sys2Proof.Machine
end

