-- ==== Sys2Proof/Machine/Ops.lean ====
section
/-! DEFINITION. The named operations over memory, registers and the stack; interrupt entry, the return
from it, and reset. -/

namespace Sys2Proof.Machine

/-- The outcome of executing an instruction. -/
abbrev Result := Host.Outcome State Fault Refusal

/-! ## Fields of the control registers -/

/-- GIE, INTCON bit 7 (10_state.md R22, R34). -/
def State.gie (s : State) : Bool := s.intcon.getLsbD 7

/-- INTCON with GIE replaced. -/
def intconWithGie (b : Bool) (v : Byte) : Byte := BitVec.ofBool b ++ v.extractLsb' 0 7

/-- EECON1.EEIF (60_exceptions.md R143). -/
def State.eeif (s : State) : Bool := s.eecon1.getLsbD 4

/-- OPTION_REG.PSA: the prescaler is assigned to the WDT (10_state.md R35). -/
def State.prescalerToWdt (s : State) : Bool := s.optionReg.getLsbD 3

/-- WDTE, bit 2 of the configuration word (10_state.md R23). -/
def State.wdte (s : State) : Bool := s.configWord.getLsbD 2

/-- The ten CP bits of the configuration word (10_state.md R23); nothing in the machine reads them
(92_eei_decisions.md D26). -/
def State.codeProtect (s : State) : BitVec 10 := s.configWord.extractLsb' 4 10

/-- PWRTE, bit 3 of the configuration word (10_state.md R23); no effect in the machine (D26). -/
def State.pwrte (s : State) : Bool := s.configWord.getLsbD 3

/-- FOSC1:FOSC0 of the configuration word (10_state.md R23); no effect in the machine (D26). -/
def State.fosc (s : State) : BitVec 2 := s.configWord.extractLsb' 0 2

/-! ## Program memory -/

/-- The program-memory index of an address: `a mod PROG_WORDS` (20_memory.md R40). -/
def progIndex (a : ProgAddr) : Nat := a.toNat % Config.progWords

/-- `ProgRead(a)` (20_memory.md R40). -/
def progRead (a : ProgAddr) (s : State) : InstrWord := Program.read s.prog (progIndex a)

/-- The instruction at the program counter. -/
def fetch (s : State) : Except DecodeError Instr := decode (progRead s.pc s)

/-! ## The return stack (10_state.md R19) -/

/-- `Push(v)`: on the top of the circular buffer; a ninth push overwrites the oldest slot. PRESUMED, log
entry 3. -/
def Stack.push (v : ProgAddr) (k : Stack) : Stack :=
  { slots := (v :: k.slots).take Config.stackDepth, live := min (k.live + 1) Config.stackDepth }

/-- TOS. The buffer always has STACK_DEPTH slots (`State.Inv`), so the default is never read. -/
def Stack.top (k : Stack) : ProgAddr := k.slots.headD 0

/-- `Pop()`: the top slot moves to the far end of the circular buffer; a pop beyond the pushes returns
what that slot holds. PRESUMED, log entry 3. -/
def Stack.pop (k : Stack) : Stack :=
  { slots := k.slots.tail ++ k.slots.take 1, live := k.live - 1 }

/-- The entries the rules speak of: STACK of R19, the top first. -/
def Stack.entries (k : Stack) : List ProgAddr := k.slots.take k.live

def State.push (v : ProgAddr) (s : State) : State := s.setStack (s.stack.push v)

/-- The state after a pop that loads the program counter with TOS. -/
def State.popToPc (s : State) : State := (s.setPc s.stack.top).setStack s.stack.pop

/-! ## Data memory -/

/-- What a register holds: the general-purpose byte, the register's own bits, the data latch of a port,
what a peripheral register was last given. -/
def held : FileReg → State → Byte
  | .indf, _ => 0
  | .tmr0, s => s.tmr0
  | .optionReg, s => s.optionReg
  | .pcl, s => s.pc.extractLsb' 0 8
  | .status, s => s.status
  | .fsr, s => s.fsr
  | .portA, s => s.portA.setWidth 8
  | .trisA, s => s.trisA.setWidth 8
  | .portB, s => s.portB
  | .trisB, s => s.trisB
  | .eedata, s => s.eedata
  | .eecon1, s => s.eecon1.setWidth 8
  | .eeadr, s => s.eeadr
  | .eecon2, _ => 0
  | .pclath, s => s.pclath.setWidth 8
  | .intcon, s => s.intcon
  | .gpr l, s => Memory.read s.gpr l.toNat
  | .unimplemented, _ => 0

/-- `MemRead` (20_memory.md R46). A port answers its pins (10_state.md R27), PCL the low byte of the
next instruction's address (R33), TMR0, EEDATA, EEADR, EECON1 and EECON2 a drawn byte (D22; log
entries 11 and 12); the others answer what they hold. -/
def readReg : FileReg → State → Byte
  | .indf, _ => 0
  | .tmr0, s => Config.envByte 0x01 s.tmr0 s.draws
  | .optionReg, s => s.optionReg
  | .pcl, s => (s.pc + 1).extractLsb' 0 8
  | .status, s => s.status
  | .fsr, s => s.fsr
  | .portA, s => s.pinsA.setWidth 8
  | .trisA, s => s.trisA.setWidth 8
  | .portB, s => s.pinsB
  | .trisB, s => s.trisB
  | .eedata, s => Config.envByte 0x08 s.eedata s.draws
  | .eecon1, s => Config.envByte 0x88 (s.eecon1.setWidth 8) s.draws
  | .eeadr, s => Config.envByte 0x09 s.eeadr s.draws
  | .eecon2, s => Config.envByte 0x89 0 s.draws
  | .pclath, s => s.pclath.setWidth 8
  | .intcon, s => s.intcon
  | .gpr l, s => Memory.read s.gpr l.toNat
  | .unimplemented, _ => 0

/-- The write of a peripheral register recorded as an event (92_eei_decisions.md D22; log entry 24). -/
def State.record (r : FileReg) (v : Byte) (s : State) : State :=
  { s with outputs := ⟨r, v⟩ :: s.outputs }

/-- `MemWrite` (20_memory.md R47). A port takes the byte into its latch (10_state.md R27); TMR0 clears
the prescaler assigned to Timer0 (R28, D32); PCL loads pc from PCLATH and the byte (R33); STATUS is
written as R17 says. -/
def writeReg : FileReg → Byte → State → State
  | .indf, _, s => s
  | .tmr0, v, s =>
    { s with tmr0 := v, prescaler := if s.prescalerToWdt then s.prescaler else 0 }.record .tmr0 v
  | .optionReg, v, s => { s with optionReg := v }.record .optionReg v
  | .pcl, v, s => s.setPc (s.pclath ++ v)
  | .status, v, s => s.setStatus (statusWritePlain v s.status)
  | .fsr, v, s => { s with fsr := v }
  | .portA, v, s => { s with portA := v.extractLsb' 0 5 }.record .portA v
  | .trisA, v, s => { s with trisA := v.extractLsb' 0 5 }.record .trisA v
  | .portB, v, s => { s with portB := v }.record .portB v
  | .trisB, v, s => { s with trisB := v }.record .trisB v
  | .eedata, v, s => { s with eedata := v }.record .eedata v
  | .eecon1, v, s => { s with eecon1 := v.extractLsb' 0 5 }.record .eecon1 v
  | .eeadr, v, s => { s with eeadr := v }.record .eeadr v
  | .eecon2, v, s => s.record .eecon2 v
  | .pclath, v, s => { s with pclath := v.extractLsb' 0 5 }
  | .intcon, v, s => s.setIntcon v
  | .gpr l, v, s => s.setGpr (Memory.write s.gpr l.toNat v)
  | .unimplemented, _, s => s

/-- `FileRead(f)` (20_memory.md R46). -/
def fileRead (f : FileAddr) (s : State) : Byte := readReg (target f s) s

/-- The state after the one `FileRead(f)` of an instruction (40_byte_oriented.md R84): a drawn read uses
up its free value, nothing else changes (20_memory.md R53). -/
def afterRead (f : FileAddr) (s : State) : State :=
  if (target f s).drawn then s.setDraws (s.draws + 1) else s

/-- `WriteDest(f, d, v, aff, fl)` (40_byte_oriented.md R82). -/
def writeDest (f : FileAddr) (d : Dest) (r : AluResult) (s : State) : State :=
  match d with
  | .w => (s.setW r.value).setStatus (r.flags.apply s.status)
  | .f =>
    if target f s = .status then s.setStatus (statusWrite r.value r.flags s.status)
    else
      let t := writeReg (target f s) r.value s
      t.setStatus (r.flags.apply t.status)

/-! ## The program counter (10_state.md R14, 40_byte_oriented.md R83) -/

/-- `pc <- pc + 1`, modulo 2^13. -/
def State.nextPc (s : State) : State := s.setPc (s.pc + 1)

/-- `Skip()` when the test holds, else `pc <- pc + 1`. -/
def State.skipIf (test : Bool) (s : State) : State := s.setPc (if test then s.pc + 2 else s.pc + 1)

/-- An instruction that reads `f` and stores a result: the read is done, the program counter advances,
then the result goes to its destination, so that a destination PCL decides the program counter (R83). -/
def readModifyStore (f : FileAddr) (d : Dest) (r : AluResult) (s : State) : State :=
  writeDest f d r (afterRead f s).nextPc

/-- As `readModifyStore`, with a skip when the result is zero. A destination PCL wins over the skip
(R83; log entry 20). -/
def readModifyStoreSkip (f : FileAddr) (d : Dest) (r : AluResult) (s : State) : State :=
  writeDest f d r ((afterRead f s).skipIf (r.value == 0))

/-- A literal operation: the result to W with its flags (42_literal_control.md section 1). -/
def storeW (r : AluResult) (s : State) : State :=
  ((s.setW r.value).setStatus (r.flags.apply s.status)).nextPc

/-- The target of CALL and GOTO: PCLATH<4:3> and the 11 bits (42_literal_control.md R135). -/
def jumpTarget (k : BitVec 11) (s : State) : ProgAddr := s.pclath.extractLsb' 3 2 ++ k

/-- WDT and its prescaler cleared, the prescaler only if assigned to the WDT (42_literal_control.md R123,
90_conflicts.md C9). -/
def State.clearWatchdog (s : State) : State :=
  { s with wdt := 0, prescaler := if s.prescalerToWdt then 0 else s.prescaler }

/-! ## Interrupts (60_exceptions.md R143 to R149) -/

/-- `request` of R144: a source whose enable and flag bits are both 1. -/
def State.interruptRequest (s : State) : Bool :=
  (s.intcon.getLsbD 5 && s.intcon.getLsbD 2) || (s.intcon.getLsbD 4 && s.intcon.getLsbD 1) ||
    (s.intcon.getLsbD 3 && s.intcon.getLsbD 0) || (s.intcon.getLsbD 6 && s.eeif)

/-- `take_interrupt` of R144. -/
def State.takesInterrupt (s : State) : Bool := s.gie && s.interruptRequest

/-- Interrupt entry is due: `take_interrupt`, but not before the instruction after SLEEP has run
(R161; log entry 16). -/
def State.entersInterrupt (s : State) : Bool := s.takesInterrupt && !s.resuming

/-- SLEEPING <- 0 (60_exceptions.md R161); the instruction after SLEEP runs next, before any
interrupt entry (log entry 16). -/
def State.wake (s : State) : State := (s.setSleeping false).setResuming true

/-- Interrupt entry (R146): push pc, clear GIE, load the vector; nothing else is saved or changed. -/
def interruptEntry (s : State) : State :=
  ((s.push s.pc).setIntcon (intconWithGie false s.intcon)).setPc Config.intVector

/-- The return from interrupt (R148, 42_literal_control.md R127): pop into pc, set GIE. -/
def returnFromInterrupt (s : State) : State :=
  s.popToPc.setIntcon (intconWithGie true s.intcon)

/-! ## Reset (70_reset_and_hazards.md R170 to R173) -/

/-- The kinds of reset (R170). The two rows of external RESET differ by SLEEPING. -/
inductive ResetKind where
  | powerOn
  | external
  | watchdog
  deriving DecidableEq, Repr

/-- TO and PD after a reset (R173): 1 1 after power-on; after external RESET 1 0 in SLEEP and unchanged
in normal operation; 0 1 after a watchdog reset. -/
def resetTimePower (kind : ResetKind) (s : State) : BitVec 2 :=
  match kind with
  | .powerOn => 0b11#2
  | .external => if s.sleeping then 0b10#2 else s.status.extractLsb' 3 2
  | .watchdog => 0b01#2

/-- What every reset does (R172). EECON1 after a reset other than POR: PRESUMED, log entry 13. The rule's
`STACK <- []` leaves open what a pop beyond the pushes returns afterwards: the slots and their order stay
as they are, none of them live. DESIGN CHOICE, log entry 33. -/
def resetCommon (kind : ResetKind) (s : State) : State :=
  { s with
    pc := Config.resetVector
    sleeping := false
    resuming := false
    status := 0#3 ++ resetTimePower kind s ++ s.status.extractLsb' 0 3
    intcon := 0#7 ++ s.intcon.extractLsb' 0 1
    pclath := 0
    optionReg := 0xFF
    trisA := 0x1F
    trisB := 0xFF
    eecon1 := 0#1 ++ s.eecon1.extractLsb' 3 1 ++ 0#3
    wdt := 0
    prescaler := 0
    stack := { s.stack with live := 0 } }

/-- The general-purpose bytes 0Ch to 0Ch + n - 1, each a free value. -/
def unknownGpr (seed : Nat) : Nat → Memory
  | 0 => []
  | n + 1 => Memory.write (unknownGpr seed n) (0x0C + n) (Config.unknownByte (seed + 16 + n))

/-- Everything R171 calls unknown after POR, replaced by free values (D12; log entry 14). -/
def makeUnknown (s : State) : State :=
  let n := s.draws
  { s with
    w := Config.unknownByte n
    status := s.status.extractLsb' 3 5 ++ (Config.unknownByte (n + 1)).extractLsb' 0 3
    fsr := Config.unknownByte (n + 2)
    intcon := s.intcon.extractLsb' 1 7 ++ (Config.unknownByte (n + 3)).extractLsb' 0 1
    tmr0 := Config.unknownByte (n + 4)
    portA := (Config.unknownByte (n + 5)).extractLsb' 0 5
    portB := Config.unknownByte (n + 6)
    eedata := Config.unknownByte (n + 7)
    eeadr := Config.unknownByte (n + 8)
    eecon1 :=
      s.eecon1.extractLsb' 4 1 ++ (Config.unknownByte (n + 9)).extractLsb' 0 1 ++ s.eecon1.extractLsb' 0 3
    stack :=
      { s.stack with slots := (List.range Config.stackDepth).map fun i => Config.unknownAddr (n + i) }
    gpr := unknownGpr n 68
    draws := n + 128 }

/-- `Reset(kind)` (R172). -/
def deviceReset (kind : ResetKind) (s : State) : State :=
  match kind with
  | .powerOn => makeUnknown (resetCommon .powerOn s)
  | .external => resetCommon .external s
  | .watchdog => resetCommon .watchdog s

end Sys2Proof.Machine
end

