-- ==== Sys2Proof/Machine/Boundary.lean ====
section
/-! DEFINITION. What happens at an instruction boundary before an instruction runs: the environment's
events, resets, watchdog time-out, wake-up, interrupt entry (60_exceptions.md R143 to R161,
70_reset_and_hazards.md R170 to R173). -/

namespace Sys2Proof.Machine

/-- What ENV does at the coming boundary; nothing when none is listed (log entry 9). -/
def State.input (s : State) : EnvInput := s.env.headD EnvInput.quiet

/-- The levels and counts ENV sets (10_state.md R27, 20_memory.md R52), its input used up. -/
def State.driven (s : State) : State :=
  { s with
    env := s.env.tail
    pinsA := s.input.pinsA.getD s.pinsA
    pinsB := s.input.pinsB.getD s.pinsB
    wdt := s.input.wdt.getD s.wdt
    prescaler := s.input.prescaler.getD s.prescaler }

/-- The flags the interrupt events set, whether enabled or not (60_exceptions.md R143). Timer0 stands
still in SLEEP (R161; log entry 18). -/
def raiseFlags (e : EnvInput) (asleep : Bool) (s : State) : State :=
  { s with
    intcon := s.intcon.extractLsb' 3 5 ++
      BitVec.ofBool (s.intcon.getLsbD 2 || (e.tmr0Overflow && !asleep)) ++
      BitVec.ofBool (s.intcon.getLsbD 1 || e.intEdge) ++
      BitVec.ofBool (s.intcon.getLsbD 0 || e.portBChange)
    eecon1 := BitVec.ofBool (s.eeif || e.eepromDone) ++ s.eecon1.extractLsb' 0 4 }

/-! ## An external RESET that cuts an instruction short (70_reset_and_hazards.md R172, D27) -/

/-- The registers an instruction writes that a reset does not itself settle (log entry 15). -/
structure Written where
  w : Bool := false
  file : Option FileAddr := none
  flags : FlagUpdate := {}
  timePower : Bool := false
  deriving DecidableEq, Repr

/-- The destination of a byte-oriented instruction. -/
def Written.dest (f : FileAddr) (d : Dest) (flags : FlagUpdate) : Written :=
  match d with
  | .w => { w := true, flags := flags }
  | .f => { file := some f, flags := flags }

/-- The destinations and affected flags of each instruction (the "status affected" column of
30_encoding.md R67); the values given to the flags play no part. -/
def writtenBy : Instr → Written
  | .addwf f d => .dest f d { z := some true, dc := some true, c := some true }
  | .andwf f d => .dest f d { z := some true }
  | .clrf f => .dest f .f { z := some true }
  | .clrw => { w := true, flags := { z := some true } }
  | .comf f d => .dest f d { z := some true }
  | .decf f d => .dest f d { z := some true }
  | .decfsz f d => .dest f d {}
  | .incf f d => .dest f d { z := some true }
  | .incfsz f d => .dest f d {}
  | .iorwf f d => .dest f d { z := some true }
  | .movf f d => .dest f d { z := some true }
  | .movwf f => .dest f .f {}
  | .nop => {}
  | .rlf f d => .dest f d { c := some true }
  | .rrf f d => .dest f d { c := some true }
  | .subwf f d => .dest f d { z := some true, dc := some true, c := some true }
  | .swapf f d => .dest f d {}
  | .xorwf f d => .dest f d { z := some true }
  | .bcf f _ => .dest f .f {}
  | .bsf f _ => .dest f .f {}
  | .btfsc _ _ => {}
  | .btfss _ _ => {}
  | .addlw _ => { w := true, flags := { z := some true, dc := some true, c := some true } }
  | .andlw _ => { w := true, flags := { z := some true } }
  | .call _ => {}
  | .clrwdt => { timePower := true }
  | .goto _ => {}
  | .iorlw _ => { w := true, flags := { z := some true } }
  | .movlw _ => { w := true }
  | .retfie => {}
  | .retlw _ => { w := true }
  | .ret => {}
  | .sleep => { timePower := true }
  | .sublw _ => { w := true, flags := { z := some true, dc := some true, c := some true } }
  | .xorlw _ => { w := true, flags := { z := some true } }
  | .option => {}
  | .trisA => {}
  | .trisB => {}

/-- An affected flag with an unknown value. -/
def unknownFlag (o : Option Bool) (b : Bool) : Option Bool := o.map fun _ => b

/-- The free values put where an instruction was writing (D27). A file register takes its free value by
the same path as a result, so that TO and PD stay what they are and a port takes it into its latch. -/
def cutShort (x : Written) (s : State) : State :=
  let n := s.draws
  let u := Config.unknownByte (n + 1)
  let flags : FlagUpdate :=
    { z := unknownFlag x.flags.z (u.getLsbD 2)
      dc := unknownFlag x.flags.dc (u.getLsbD 1)
      c := unknownFlag x.flags.c (u.getLsbD 0) }
  let s1 := match x.file with
    | some f => writeDest f .f { value := Config.unknownByte n, flags := flags } s
    | none => s.setStatus (flags.apply s.status)
  let s2 := if x.w then s1.setW (Config.unknownByte (n + 2)) else s1
  let s3 := if x.timePower then
      s2.setStatus (statusTimePower (u.getLsbD 4) (u.getLsbD 3) s2.status)
    else s2
  s3.setDraws (n + 3)

/-- The state an external RESET finds when it cuts the coming instruction short: in SLEEP, before interrupt
entry, and on a word that is no instruction, no register is being written. -/
def State.instructionCut (s : State) : State :=
  if s.sleeping || s.entersInterrupt then s
  else match fetch s with
    | .ok i => cutShort (writtenBy i) s
    | .error _ => s

/-- The reset ENV raises (R170). -/
def raisedReset (r : ResetEvent) (s : State) : State :=
  match r with
  | .powerOn => deviceReset .powerOn s
  | .external => deviceReset .external s
  | .externalCut => deviceReset .external s.instructionCut

/-! ## Watchdog time-out, wake-up, interrupt -/

/-- A WdtTimeout that happens: only while WDTE = 1 (60_exceptions.md R153). -/
def State.timesOut (s : State) : Bool := s.input.wdtTimeout && s.wdte

/-- The wake-up by a time-out in SLEEP (R154): TO <- 0, the watchdog cleared, SLEEPING <- 0. -/
def watchdogWake (s : State) : State :=
  (s.clearWatchdog.setStatus (statusTimePower false (s.status.getLsbD 3) s.status)).wake

/-- How a boundary ends: the step is over, or the step is interrupt entry, or it runs an instruction. -/
inductive Boundary where
  | settled (s : State)
  | entering (s : State)
  | running (s : State)
  deriving DecidableEq, Repr

/-- The boundary in SLEEP (R160, R161): a time-out or a request of an enabled source wakes, else nothing
changes. No instruction runs, so that a reset can come between the wake-up and the instruction after
SLEEP (70_reset_and_hazards.md R172). The request is R144's, so that a T0IF which stood before SLEEP wakes
where T0IE is 1, although Timer0 raises none in SLEEP (DESIGN CHOICE, log entry 35). -/
def sleepBoundary (s : State) : Boundary :=
  let t := raiseFlags s.input true s.driven
  .settled (if s.timesOut then watchdogWake t else if t.interruptRequest then t.wake else t)

/-- The boundary while executing: a time-out is a device reset (R154) and comes first (R145), then
interrupt entry (R146), else an instruction runs. The flags ENV sets at the boundary of a reset stay set
(R145; log entry 17). -/
def awakeBoundary (s : State) : Boundary :=
  if s.timesOut then .settled (raiseFlags s.input false (deviceReset .watchdog s.driven))
  else
    let t := raiseFlags s.input false s.driven
    if t.entersInterrupt then .entering t else .running (t.setResuming false)

/-- The boundary. A reset wins over interrupt entry and over the coming instruction (R145). Two orders are
the model's, not the spec's: a reset that ENV raises at the boundary of a time-out wins over it, and the
time-out is dropped, so that TO and PD follow the row of that reset (DESIGN CHOICE, log entry 31); and
SLEEPING is looked at before interrupt entry, so that where the instruction after SLEEP is itself SLEEP
and the request still stands, a second wake-up and one more instruction come before entry (DESIGN CHOICE,
log entry 32). -/
def boundary (s : State) : Boundary :=
  match s.input.reset with
  | some r => .settled (raiseFlags s.input s.sleeping (raisedReset r s.driven))
  | none => if s.sleeping then sleepBoundary s else awakeBoundary s

end Sys2Proof.Machine
end

