-- ==== Sys2Proof/Machine/BitOriented.lean ====
section
/-! DEFINITION. The meanings of the bit-oriented file register operations (41_bit_oriented.md). -/

namespace Sys2Proof.Machine

/-- R111: 0 → (f<b>), a read-modify-write of the whole byte (R110). -/
def execBcf (f : FileAddr) (b : BitVec 3) (s : State) : Result :=
  .next (readModifyStore f .f (plainResult (clearBit (fileRead f s) b)) s)

/-- R112: 1 → (f<b>), a read-modify-write of the whole byte (R110). -/
def execBsf (f : FileAddr) (b : BitVec 3) (s : State) : Result :=
  .next (readModifyStore f .f (plainResult (setBit (fileRead f s) b)) s)

/-- R113: skip if (f<b>) = 0. -/
def execBtfsc (f : FileAddr) (b : BitVec 3) (s : State) : Result :=
  .next ((afterRead f s).skipIf (!testBit (fileRead f s) b))

/-- R114: skip if (f<b>) = 1. -/
def execBtfss (f : FileAddr) (b : BitVec 3) (s : State) : Result :=
  .next ((afterRead f s).skipIf (testBit (fileRead f s) b))

end Sys2Proof.Machine
end

