-- ==== Sys2Proof/Machine/ByteOriented.lean ====
section
/-! DEFINITION. The meanings of the byte-oriented file register operations (40_byte_oriented.md). -/

namespace Sys2Proof.Machine

/-- R86: (W) + (f) → (destination). -/
def execAddwf (f : FileAddr) (d : Dest) (s : State) : Result :=
  .next (readModifyStore f d (add8 s.w (fileRead f s)) s)

/-- R87: (W) .AND. (f) → (destination). -/
def execAndwf (f : FileAddr) (d : Dest) (s : State) : Result :=
  .next (readModifyStore f d (zResult (s.w &&& fileRead f s)) s)

/-- R88: 00h → (f); 1 → Z. `f` is not read. -/
def execClrf (f : FileAddr) (s : State) : Result :=
  .next (writeDest f .f { value := 0, flags := { z := some true } } s.nextPc)

/-- R89: 00h → (W); 1 → Z. -/
def execClrw (s : State) : Result :=
  .next (storeW { value := 0, flags := { z := some true } } s)

/-- R90: the one's complement of (f) → (destination). -/
def execComf (f : FileAddr) (d : Dest) (s : State) : Result :=
  .next (readModifyStore f d (zResult (~~~(fileRead f s))) s)

/-- R91: (f) - 1 → (destination). -/
def execDecf (f : FileAddr) (d : Dest) (s : State) : Result :=
  .next (readModifyStore f d (zResult (fileRead f s - 1)) s)

/-- R92: (f) - 1 → (destination); skip if result = 0. -/
def execDecfsz (f : FileAddr) (d : Dest) (s : State) : Result :=
  .next (readModifyStoreSkip f d (plainResult (fileRead f s - 1)) s)

/-- R93: (f) + 1 → (destination). -/
def execIncf (f : FileAddr) (d : Dest) (s : State) : Result :=
  .next (readModifyStore f d (zResult (fileRead f s + 1)) s)

/-- R94: (f) + 1 → (destination), skip if result = 0. -/
def execIncfsz (f : FileAddr) (d : Dest) (s : State) : Result :=
  .next (readModifyStoreSkip f d (plainResult (fileRead f s + 1)) s)

/-- R95: (W) .OR. (f) → (destination). -/
def execIorwf (f : FileAddr) (d : Dest) (s : State) : Result :=
  .next (readModifyStore f d (zResult (s.w ||| fileRead f s)) s)

/-- R96: (f) → (destination). -/
def execMovf (f : FileAddr) (d : Dest) (s : State) : Result :=
  .next (readModifyStore f d (zResult (fileRead f s)) s)

/-- R97: (W) → (f). `f` is not read. -/
def execMovwf (f : FileAddr) (s : State) : Result :=
  .next (writeDest f .f (plainResult s.w) s.nextPc)

/-- R98: no operation. -/
def execNop (s : State) : Result := .next s.nextPc

/-- R99: rotate left through carry. -/
def execRlf (f : FileAddr) (d : Dest) (s : State) : Result :=
  .next (readModifyStore f d (rotateLeft (fileRead f s) s.carry) s)

/-- R100: rotate right through carry. -/
def execRrf (f : FileAddr) (d : Dest) (s : State) : Result :=
  .next (readModifyStore f d (rotateRight (fileRead f s) s.carry) s)

/-- R101: (f) - (W) → (destination). -/
def execSubwf (f : FileAddr) (d : Dest) (s : State) : Result :=
  .next (readModifyStore f d (sub8 (fileRead f s) s.w) s)

/-- R102: the nibbles of (f) exchanged → (destination). -/
def execSwapf (f : FileAddr) (d : Dest) (s : State) : Result :=
  .next (readModifyStore f d (plainResult (swapNibbles (fileRead f s))) s)

/-- R103: (W) .XOR. (f) → (destination). -/
def execXorwf (f : FileAddr) (d : Dest) (s : State) : Result :=
  .next (readModifyStore f d (zResult (s.w ^^^ fileRead f s)) s)

end Sys2Proof.Machine
end

