-- ==== Sys2Proof/Machine/LiteralControl.lean ====
section
/-! DEFINITION. The meanings of the literal and control operations (42_literal_control.md). -/

namespace Sys2Proof.Machine

/-- R120: (W) + k → (W). -/
def execAddlw (k : Byte) (s : State) : Result := .next (storeW (add8 s.w k) s)

/-- R121: (W) .AND. (k) → (W). -/
def execAndlw (k : Byte) (s : State) : Result := .next (storeW (zResult (s.w &&& k)) s)

/-- R122: push pc + 1, then jump. -/
def execCall (k : BitVec 11) (s : State) : Result :=
  .next ((s.push (s.pc + 1)).setPc (jumpTarget k s))

/-- R123: 00h → WDT, 0 → WDT prescaler, 1 → TO, 1 → PD. -/
def execClrwdt (s : State) : Result :=
  .next (s.clearWatchdog.setStatus (statusTimePower true true s.status)).nextPc

/-- R124: k → PC<10:0>, PCLATH<4:3> → PC<12:11>. -/
def execGoto (k : BitVec 11) (s : State) : Result := .next (s.setPc (jumpTarget k s))

/-- R125: (W) .OR. k → (W). -/
def execIorlw (k : Byte) (s : State) : Result := .next (storeW (zResult (s.w ||| k)) s)

/-- R126: k → (W). -/
def execMovlw (k : Byte) (s : State) : Result := .next (storeW (plainResult k) s)

/-- R127: TOS → PC, 1 → GIE. -/
def execRetfie (s : State) : Result := .next (returnFromInterrupt s)

/-- R128: k → (W); TOS → PC. -/
def execRetlw (k : Byte) (s : State) : Result := .next (s.popToPc.setW k)

/-- R129 (RETURN): TOS → PC. -/
def execRet (s : State) : Result := .next s.popToPc

/-- R130: 00h → WDT, 0 → WDT prescaler, 1 → TO, 0 → PD, SLEEP mode. -/
def execSleep (s : State) : Result :=
  .next ((s.clearWatchdog.setStatus (statusTimePower true false s.status)).nextPc.setSleeping true)

/-- R131: k - (W) → (W). -/
def execSublw (k : Byte) (s : State) : Result := .next (storeW (sub8 k s.w) s)

/-- R132: (W) .XOR. k → (W). -/
def execXorlw (k : Byte) (s : State) : Result := .next (storeW (zResult (s.w ^^^ k)) s)

/-- R133: OPTION_REG <- W. PRESUMED, log entry 6. -/
def execOption (s : State) : Result := .next (writeReg .optionReg s.w s.nextPc)

/-- R134 with f = 5: TRISA <- W[4:0]. PRESUMED, log entry 6. -/
def execTrisA (s : State) : Result := .next (writeReg .trisA s.w s.nextPc)

/-- R134 with f = 6: TRISB <- W. PRESUMED, log entry 6. -/
def execTrisB (s : State) : Result := .next (writeReg .trisB s.w s.nextPc)

end Sys2Proof.Machine
end

