-- ==== Sys2Proof/Machine/Step.lean ====
section
/-! DEFINITION. One step of the machine. -/

namespace Sys2Proof.Machine

/-- The instruction at the program counter executed; a word no row of the opcode map matches is refused
(30_encoding.md R69, D10). -/
def runInstruction (s : State) : Host.Outcome State Fault Refusal :=
  match fetch s with
  | .ok i => exec i s
  | .error (.unassigned iw) => .refused (.unassignedWord iw)

/-- One step: the instruction boundary, and the instruction that runs if one does. -/
def step (s : State) : Host.Outcome State Fault Refusal :=
  match boundary s with
  | .settled t => .next t
  | .entering t => .next (interruptEntry t)
  | .running t => runInstruction t

/-- The environment quiet at the coming boundary, its later inputs as they were. -/
def State.quieted (s : State) : State :=
  s.setEnv (if s.env = [] then [] else EnvInput.quiet :: s.env)

/-- No interrupt entry at the coming boundary: GIE is cleared if one were due. -/
def State.uninterrupted (s : State) : State :=
  if s.entersInterrupt then s.setIntcon (intconWithGie false s.intcon) else s

/-- `s` with the instruction stored at the program counter and made the next thing to run: awake, ENV
quiet at the coming boundary, no interrupt due (log entry 8). -/
def State.withFetchWord (s : State) (nbits w : Nat) : State :=
  { (s.setSleeping false).quieted.uninterrupted with
    prog := Program.write s.prog (progIndex s.pc) (BitVec.ofNat 14 (w % 2 ^ nbits)) }

end Sys2Proof.Machine
end

