-- ==== Sys2Proof/Machine/Timing.lean ====
section
/-! DEFINITION. Instruction cycles (70_reset_and_hazards.md R182, 40_byte_oriented.md R85). Timing only:
nothing in the machine depends on it (log entry 23). -/

namespace Sys2Proof.Machine

/-- The result goes to the program counter: the destination is the file register PCL. -/
def storesToPcl (f : FileAddr) (d : Dest) (s : State) : Bool := d == .f && target f s == .pcl

/-- Whether the conditional test of a skip instruction is true in `s`. -/
def skipTaken : Instr → State → Bool
  | .decfsz f _, s => fileRead f s - 1 == 0
  | .incfsz f _, s => fileRead f s + 1 == 0
  | .btfsc f b, s => !testBit (fileRead f s) b
  | .btfss f b, s => testBit (fileRead f s) b
  | _, _ => false

/-- Whether the destination of the instruction is the file register PCL in `s` (Table 7-2 Note 3). -/
def modifiesPcl : Instr → State → Bool
  | .addwf f d, s => storesToPcl f d s
  | .andwf f d, s => storesToPcl f d s
  | .clrf f, s => storesToPcl f .f s
  | .comf f d, s => storesToPcl f d s
  | .decf f d, s => storesToPcl f d s
  | .decfsz f d, s => storesToPcl f d s
  | .incf f d, s => storesToPcl f d s
  | .incfsz f d, s => storesToPcl f d s
  | .iorwf f d, s => storesToPcl f d s
  | .movf f d, s => storesToPcl f d s
  | .movwf f, s => storesToPcl f .f s
  | .rlf f d, s => storesToPcl f d s
  | .rrf f d, s => storesToPcl f d s
  | .subwf f d, s => storesToPcl f d s
  | .swapf f d, s => storesToPcl f d s
  | .xorwf f d, s => storesToPcl f d s
  | .bcf f _, s => storesToPcl f .f s
  | .bsf f _, s => storesToPcl f .f s
  | _, _ => false

/-- CALL, GOTO and the returns. -/
def transfersControl : Instr → Bool
  | .call _ => true
  | .goto _ => true
  | .retfie => true
  | .retlw _ => true
  | .ret => true
  | _ => false

/-- The instruction cycles an instruction takes when executed in `s` (R182): one, or two when a
conditional test is true or the program counter is changed as a result of the instruction. -/
def cycles (i : Instr) (s : State) : Nat :=
  if transfersControl i || skipTaken i s || modifiesPcl i s then 2 else 1

/-- The instruction cycles interrupt entry takes (60_exceptions.md R146). -/
def interruptEntryCycles : Nat := 2

/-- Oscillator periods per instruction cycle (00_scope.md R4). -/
def oscillatorPeriodsPerCycle : Nat := 4

end Sys2Proof.Machine
end

