-- ==== Sys2Proof/Safety.lean ====
section
/-! DEFINITION. The terms claims use: the invariant of the machine, safe uses of the return stack, the
conservative profile, and what storing a result means, field by field. -/

namespace Sys2Proof.Machine

/-- The invariant every step keeps: the memories are in canonical form and list existing addresses only,
the return stack has its eight slots, in SLEEP TO = 1 and PD = 0 as SLEEP set them (R173), and a
processor that has been woken is not in SLEEP. -/
def State.Inv (s : State) : Prop :=
  Memory.wf s.gpr = true ∧ Program.wf s.prog = true ∧
    s.stack.slots.length = Config.stackDepth ∧ s.stack.live ≤ Config.stackDepth ∧
    (s.sleeping = true → s.status.extractLsb' 3 2 = 0b10#2) ∧
    (s.resuming = true → s.sleeping = false)

/-- The instruction neither overflows nor underflows the return stack (10_state.md R19, the refusals of
60_exceptions.md R163). -/
def stackSafe : Instr → State → Prop
  | .call _, s => s.stack.live < Config.stackDepth
  | .ret, s => 0 < s.stack.live
  | .retlw _, s => 0 < s.stack.live
  | .retfie, s => 0 < s.stack.live
  | _, _ => True

/-- The launch premises of the conservative profile that speak of one state (60_exceptions.md R164):
WDTE = 0; ENV raises no reset (an external RESET by premise (b), and power is applied at the start of a
run only, 70_reset_and_hazards.md R172), whatever else it does; GIE = 0; the run has not come to a SLEEP,
so the processor is not asleep and not just woken. -/
def State.Conservative (s : State) : Prop :=
  s.wdte = false ∧ (∀ e ∈ s.env, e.reset = none) ∧ s.gie = false ∧ s.sleeping = false ∧
    s.resuming = false

/-- ENV does nothing at the coming boundary. -/
def State.EnvQuiet (s : State) : Prop := s.input = EnvInput.quiet

/-- ENV raises no reset at the coming boundary and no time-out that has an effect (60_exceptions.md R153);
it may do anything else. -/
def State.Undisturbed (s : State) : Prop := s.input.reset = none ∧ s.timesOut = false

/-- The state at the coming boundary with the levels, the counts and the flags ENV gives there, before
anything else happens (60_exceptions.md R143). -/
def State.raised (s : State) : State := raiseFlags s.input s.sleeping s.driven

/-- What a register keeps of a byte written to it (10_state.md R20, R24, R25): the five bits of PCLATH,
PORTA, TRISA and EECON1, nothing of INDF, EECON2 and a location not implemented, else the byte. -/
def keptOf (r : FileReg) (v : Byte) : Byte :=
  match r with
  | .pclath => v &&& 0x1F#8
  | .portA => v &&& 0x1F#8
  | .trisA => v &&& 0x1F#8
  | .eecon1 => v &&& 0x1F#8
  | .indf => 0
  | .eecon2 => 0
  | .unimplemented => 0
  | _ => v

/-- Everything an instruction other than a control or system instruction leaves alone: the stack, the
pins, the watchdog counter, SLEEPING and the wake-up from it, program memory, the configuration word,
ENV. -/
def SameBackground (s t : State) : Prop :=
  t.stack = s.stack ∧ t.pinsA = s.pinsA ∧ t.pinsB = s.pinsB ∧ t.wdt = s.wdt ∧
    t.sleeping = s.sleeping ∧ t.resuming = s.resuming ∧ t.prog = s.prog ∧
    t.configWord = s.configWord ∧ t.env = s.env

/-- Bit `n` of STATUS after a result: the computed flag if the instruction affects it; else the result's
bit if the result is stored in STATUS by an instruction that affects no flag; else as before. -/
def StatusBitIs (n : Nat) (computed : Option Bool) (stored : Option Byte) (s t : State) : Prop :=
  t.status.getLsbD n =
    match computed, stored with
    | some b, _ => b
    | none, some v => v.getLsbD n
    | none, none => s.status.getLsbD n

/-- The byte whose low three bits STATUS takes: the result, if STATUS is the destination of an
instruction that affects none of Z, DC, C (10_state.md R17, R18). -/
def storedInStatus (f : FileAddr) (d : Dest) (v : Byte) (z dc c : Option Bool) (s : State) :
    Option Byte :=
  if d = .f ∧ target f s = .status ∧ z = none ∧ dc = none ∧ c = none then some v else none

/-- The state `t` is `s` after the result `v` went to the destination `d` of the operand `f`, with the
computed values of the flags the instruction affects, and `pc` after the instruction unless the
destination is PCL. This is WriteDest (40_byte_oriented.md R82) with 10_state.md R17, R18 and the
register-specific writes of 20_memory.md R47, said of each piece of state; the model's own `draws` is
left free. -/
structure Stores (f : FileAddr) (d : Dest) (v : Byte) (z dc c : Option Bool) (next : ProgAddr)
    (s t : State) : Prop where
  /-- `d = 0`: the result is in W; else W is unchanged. -/
  w : t.w = if d = .w then v else s.w
  /-- Every register but STATUS and PCL: the destination holds what it keeps of the result, every other
  one, every general-purpose byte included, holds what it held. -/
  registers : ∀ r, r ≠ .status → r ≠ .pcl →
    held r t = if d = .f ∧ r = target f s then keptOf r v else held r s
  /-- The bank bits 7:5 of STATUS. -/
  bank : t.status.extractLsb' 5 3 =
    if d = .f ∧ target f s = .status then v.extractLsb' 5 3 else s.status.extractLsb' 5 3
  /-- TO and PD are not writable. -/
  timePower : t.status.extractLsb' 3 2 = s.status.extractLsb' 3 2
  zFlag : StatusBitIs 2 z (storedInStatus f d v z dc c s) s t
  dcFlag : StatusBitIs 1 dc (storedInStatus f d v z dc c s) s t
  cFlag : StatusBitIs 0 c (storedInStatus f d v z dc c s) s t
  /-- A destination PCL decides the program counter (10_state.md R33). -/
  pc : t.pc = if d = .f ∧ target f s = .pcl then s.pclath ++ v else next
  /-- A write of TMR0 clears the prescaler assigned to Timer0 (10_state.md R28). -/
  prescaler : t.prescaler =
    if d = .f ∧ target f s = .tmr0 ∧ s.prescalerToWdt = false then 0 else s.prescaler
  /-- A write of a peripheral register is recorded (D22). -/
  outputs : t.outputs =
    if d = .f ∧ (target f s).recorded = true then ⟨target f s, v⟩ :: s.outputs else s.outputs
  background : SameBackground s t

/-- The state `t` is `s` after a literal operation left `v` in W with the computed flags; everything else
is unchanged. -/
def StoresW (v : Byte) (z dc c : Option Bool) (s t : State) : Prop :=
  t.status.extractLsb' 3 5 = s.status.extractLsb' 3 5 ∧
    StatusBitIs 2 z none s t ∧ StatusBitIs 1 dc none s t ∧ StatusBitIs 0 c none s t ∧
    t = { s with w := v, pc := s.pc + 1, status := t.status }

/-! ## The shape of an instruction's rule: encoding, effect, cycles -/

/-- The rule of a byte-oriented instruction `i f d` with opcode `op`: its word decodes to it; from every
state it answers a next state, in which the result `v` has gone to its destination with the flags it
affects, and nothing else has changed; it takes one cycle, two when its destination is PCL
(40_byte_oriented.md R82 to R85). Two of its clauses are the model's choices: a destination PCL
(10_state.md R33, PRESUMED, log entry 5) and the recorded writes (D22, DESIGN CHOICE, log entry 24). -/
def FileRule (i : FileAddr → Dest → Instr) (op : BitVec 6) (v : FileAddr → State → Byte)
    (z dc c : FileAddr → State → Option Bool) : Prop :=
  ∀ (f : FileAddr) (d : Dest) (s : State),
    decode (op ++ d.bit ++ f) = .ok (i f d) ∧
    (∃ t, exec (i f d) s = .next t ∧
      Stores f d (v f s) (z f s) (dc f s) (c f s) (s.pc + 1) s t) ∧
    cycles (i f d) s = if d = .f ∧ target f s = .pcl then 2 else 1

/-- As `FileRule`, for an instruction that affects no flag and skips when its result is zero (R83). A
destination PCL wins over the skip: DEDUCED, log entry 20. -/
def FileSkipRule (i : FileAddr → Dest → Instr) (op : BitVec 6) (v : FileAddr → State → Byte) : Prop :=
  ∀ (f : FileAddr) (d : Dest) (s : State),
    decode (op ++ d.bit ++ f) = .ok (i f d) ∧
    (∃ t, exec (i f d) s = .next t ∧
      Stores f d (v f s) none none none (if v f s = 0 then s.pc + 2 else s.pc + 1) s t) ∧
    cycles (i f d) s = if v f s = 0 ∨ (d = .f ∧ target f s = .pcl) then 2 else 1

/-- The rule of a bit-oriented instruction `i f b` that writes the register back (41_bit_oriented.md
R110): as `FileRule`, log entries 5 and 24 included, with `d = 1` and no flag affected. -/
def BitWriteRule (i : FileAddr → BitVec 3 → Instr) (op : BitVec 4)
    (v : FileAddr → BitVec 3 → State → Byte) : Prop :=
  ∀ (f : FileAddr) (b : BitVec 3) (s : State),
    decode (op ++ b ++ f) = .ok (i f b) ∧
    (∃ t, exec (i f b) s = .next t ∧ Stores f .f (v f b s) none none none (s.pc + 1) s t) ∧
    cycles (i f b) s = if target f s = .pcl then 2 else 1

/-- The rule of a bit test `i f b` (41_bit_oriented.md R113, R114): it writes nothing and skips when the
tested bit has the value `on`; all but the program counter and the model's own `draws` is unchanged. -/
def BitTestRule (i : FileAddr → BitVec 3 → Instr) (op : BitVec 4) (on : Bool) : Prop :=
  ∀ (f : FileAddr) (b : BitVec 3) (s : State),
    decode (op ++ b ++ f) = .ok (i f b) ∧
    (∃ n, exec (i f b) s = .next
      { s with pc := if (fileRead f s).getLsbD b.toNat = on then s.pc + 2 else s.pc + 1, draws := n }) ∧
    cycles (i f b) s = if (fileRead f s).getLsbD b.toNat = on then 2 else 1

/-- The rule of a literal operation `i k` on W (42_literal_control.md section 1). Its word is `op`, then
the `m` don't-care bits of 30_encoding.md R68 with any value, then `k`. -/
def LiteralRule (n m : Nat) (h : n + m + 8 = 14) (i : Byte → Instr) (op : BitVec n)
    (v : Byte → State → Byte) (z dc c : Byte → State → Option Bool) : Prop :=
  ∀ (k : Byte) (x : BitVec m) (s : State),
    decode ((op ++ x ++ k).cast h) = .ok (i k) ∧
    (∃ t, exec (i k) s = .next t ∧ StoresW (v k s) (z k s) (dc k s) (c k s) s t) ∧
    cycles (i k) s = 1

/-- The file operand of an instruction, if it has one. -/
def fileOperand : Instr → Option FileAddr
  | .addwf f _ => some f
  | .andwf f _ => some f
  | .clrf f => some f
  | .comf f _ => some f
  | .decf f _ => some f
  | .decfsz f _ => some f
  | .incf f _ => some f
  | .incfsz f _ => some f
  | .iorwf f _ => some f
  | .movf f _ => some f
  | .movwf f => some f
  | .rlf f _ => some f
  | .rrf f _ => some f
  | .subwf f _ => some f
  | .swapf f _ => some f
  | .xorwf f _ => some f
  | .bcf f _ => some f
  | .bsf f _ => some f
  | .btfsc f _ => some f
  | .btfss f _ => some f
  | _ => none

end Sys2Proof.Machine
end

