-- ==== Sys2Proof/Machine/DefaultProfile.lean ====
section
/-! DEFINITION. The default profile of the spec: the step that refuses where 60_exceptions.md R163 tells a
model to refuse. The machine itself gives these situations the chip's effect, as its log entries 3, 5 and
6 say; a claim proved of `defaultStep` holds of a run that never meets one. -/

namespace Sys2Proof.Machine

/-- The rows of R163. The row of never-written registers is not among them: in this model they hold
values that log entries 1 and 2 name. -/
inductive DefaultRefusal where
  /-- What `step` itself refuses: the fetch of an unassigned word (30_encoding.md R69, D10). Safe. -/
  | ofStep (r : Refusal)
  /-- The fetch of OPTION or TRIS (30_encoding.md R70, D11). Safe. -/
  | optionOrTris
  /-- CALL or interrupt entry with the stack full (10_state.md R19, D6). Safe. -/
  | stackOverflow
  /-- RETURN, RETLW or RETFIE with the stack empty (10_state.md R19, D6). Safe. -/
  | stackUnderflow
  /-- An access whose effective address is PCL (10_state.md R33, D24). Safe. -/
  | pclAccess
  deriving DecidableEq, Repr

/-- A push is refused when the stack is full. -/
def Stack.pushRefusal (k : Stack) : Option DefaultRefusal :=
  if k.live < Config.stackDepth then none else some .stackOverflow

/-- A pop is refused when the stack is empty. -/
def Stack.popRefusal (k : Stack) : Option DefaultRefusal :=
  if 0 < k.live then none else some .stackUnderflow

/-- Why the default profile refuses to execute `i` in `s`, if it does. -/
def refusedByDefault (i : Instr) (s : State) : Option DefaultRefusal :=
  match i with
  | .option => some .optionOrTris
  | .trisA => some .optionOrTris
  | .trisB => some .optionOrTris
  | .call _ => s.stack.pushRefusal
  | .ret => s.stack.popRefusal
  | .retlw _ => s.stack.popRefusal
  | .retfie => s.stack.popRefusal
  | i => if (fileOperand i).any fun f => target f s == .pcl then some .pclAccess else none

/-- Why the default profile refuses the coming step, beyond what `step` itself refuses. -/
def State.defaultRefusal (s : State) : Option DefaultRefusal :=
  match boundary s with
  | .settled _ => none
  | .entering t => t.stack.pushRefusal
  | .running t =>
    match fetch t with
    | .ok i => refusedByDefault i t
    | .error _ => none

/-- One step of the default profile. -/
def defaultStep (s : State) : Host.Outcome State Fault DefaultRefusal :=
  match s.defaultRefusal with
  | some r => .refused r
  | none =>
    match step s with
    | .next t => .next t
    | .fault f => .fault f
    | .refused r => .refused (.ofStep r)

end Sys2Proof.Machine
end

