-- ==== Sys2Proof/WellFormed.lean ====
section
/-! DEFINITION. Operand ranges (30_encoding.md R73, 42_literal_control.md R134). The fields of `Instr`
have the exact widths of the encoding, so every instruction passes; the checks refuse the numbers an
assembler line may not give. -/

namespace Sys2Proof

/-- The kinds of operand field (30_encoding.md R66, R73). -/
inductive OperandField where
  /-- `f`, 0 to 127 -/
  | file
  /-- `d`, 0 or 1 -/
  | dest
  /-- `b`, 0 to 7 (90_conflicts.md C1) -/
  | bit
  /-- `k` of a literal operation, 0 to 255 -/
  | literal8
  /-- `k` of CALL and GOTO, 0 to 2047 -/
  | literal11
  /-- `f` of TRIS, 5 or 6 -/
  | trisFile
  deriving DecidableEq, Repr

/-- The numbers each operand field admits (R73). -/
def OperandField.accepts : OperandField → Nat → Bool
  | .file, n => n ≤ 127
  | .dest, n => n ≤ 1
  | .bit, n => n ≤ 7
  | .literal8, n => n ≤ 255
  | .literal11, n => n ≤ 2047
  | .trisFile, n => n == 5 || n == 6

/-- `d` as the number an assembler line gives (R71). -/
def Dest.number : Dest → Nat
  | .w => 0
  | .f => 1

/-- The operands of an instruction, as its row of the opcode table lists them. -/
def Instr.operands : Instr → List (OperandField × Nat)
  | .addwf f d => [(.file, f.toNat), (.dest, d.number)]
  | .andwf f d => [(.file, f.toNat), (.dest, d.number)]
  | .clrf f => [(.file, f.toNat)]
  | .clrw => []
  | .comf f d => [(.file, f.toNat), (.dest, d.number)]
  | .decf f d => [(.file, f.toNat), (.dest, d.number)]
  | .decfsz f d => [(.file, f.toNat), (.dest, d.number)]
  | .incf f d => [(.file, f.toNat), (.dest, d.number)]
  | .incfsz f d => [(.file, f.toNat), (.dest, d.number)]
  | .iorwf f d => [(.file, f.toNat), (.dest, d.number)]
  | .movf f d => [(.file, f.toNat), (.dest, d.number)]
  | .movwf f => [(.file, f.toNat)]
  | .nop => []
  | .rlf f d => [(.file, f.toNat), (.dest, d.number)]
  | .rrf f d => [(.file, f.toNat), (.dest, d.number)]
  | .subwf f d => [(.file, f.toNat), (.dest, d.number)]
  | .swapf f d => [(.file, f.toNat), (.dest, d.number)]
  | .xorwf f d => [(.file, f.toNat), (.dest, d.number)]
  | .bcf f b => [(.file, f.toNat), (.bit, b.toNat)]
  | .bsf f b => [(.file, f.toNat), (.bit, b.toNat)]
  | .btfsc f b => [(.file, f.toNat), (.bit, b.toNat)]
  | .btfss f b => [(.file, f.toNat), (.bit, b.toNat)]
  | .addlw k => [(.literal8, k.toNat)]
  | .andlw k => [(.literal8, k.toNat)]
  | .call k => [(.literal11, k.toNat)]
  | .clrwdt => []
  | .goto k => [(.literal11, k.toNat)]
  | .iorlw k => [(.literal8, k.toNat)]
  | .movlw k => [(.literal8, k.toNat)]
  | .retfie => []
  | .retlw k => [(.literal8, k.toNat)]
  | .ret => []
  | .sleep => []
  | .sublw k => [(.literal8, k.toNat)]
  | .xorlw k => [(.literal8, k.toNat)]
  | .option => []
  | .trisA => [(.trisFile, 5)]
  | .trisB => [(.trisFile, 6)]

/-- Operand lists are well formed when every field admits its number (R73). -/
def operandsOk (l : List (OperandField × Nat)) : Bool := l.all fun p => p.1.accepts p.2

/-- Well-formedness of an instruction: every operand is in its range. -/
def Instr.wellFormed (i : Instr) : Bool := operandsOk i.operands

end Sys2Proof
end

