-- ==== Sys2Proof/Certificates/Slice0/Obligations.lean ====
section
/-! DEFINITION. The statements for the provers. -/

open Sys2Proof Sys2Proof.Machine

/-! ## Byte-oriented file register operations -/

/-- R86, R80: ADDWF stores W + f modulo 256; C is the carry out of bit 7, DC out of bit 3, Z is set
iff the result is 0. A destination PCL is log entry 5's, a recorded write log entry 24's: the
model's choices. -/
def Obligations.AddwfStoresTheSum : Prop :=
  FileRule .addwf 0b000111 (fun f s => BitVec.ofNat 8 (s.w.toNat + (fileRead f s).toNat))
    (fun f s => some (decide ((s.w.toNat + (fileRead f s).toNat) % 256 = 0)))
    (fun f s => some (decide (16 ≤ s.w.toNat % 16 + (fileRead f s).toNat % 16)))
    (fun f s => some (decide (256 ≤ s.w.toNat + (fileRead f s).toNat)))

/-- R101, R81: SUBWF stores f - W modulo 256; C = 1 iff W ≤ f (no borrow), DC the same of the low
nibbles, Z iff the result is 0. A destination PCL is log entry 5's, a recorded write log entry 24's:
the model's choices. -/
def Obligations.SubwfStoresTheDifference : Prop :=
  FileRule .subwf 0b000010 (fun f s => BitVec.ofNat 8 (256 + (fileRead f s).toNat - s.w.toNat))
    (fun f s => some (decide ((fileRead f s).toNat = s.w.toNat)))
    (fun f s => some (decide (s.w.toNat % 16 ≤ (fileRead f s).toNat % 16)))
    (fun f s => some (decide (s.w.toNat ≤ (fileRead f s).toNat)))

/-- R87, R95, R103: ANDWF, IORWF, XORWF store the bitwise result of W and f and set Z alone. A
destination PCL is log entry 5's, a recorded write log entry 24's: the model's choices. -/
def Obligations.LogicWithWSetsZOnly : Prop :=
  FileRule .andwf 0b000101 (fun f s => s.w &&& fileRead f s)
      (fun f s => some (decide (s.w &&& fileRead f s = 0))) (fun _ _ => none) (fun _ _ => none) ∧
    FileRule .iorwf 0b000100 (fun f s => s.w ||| fileRead f s)
      (fun f s => some (decide (s.w = 0 ∧ fileRead f s = 0))) (fun _ _ => none) (fun _ _ => none) ∧
    FileRule .xorwf 0b000110 (fun f s => s.w ^^^ fileRead f s)
      (fun f s => some (decide (s.w = fileRead f s))) (fun _ _ => none) (fun _ _ => none)

/-- R90, R96: COMF stores the one's complement of f, MOVF stores f itself; each sets Z alone. A
destination PCL is log entry 5's, a recorded write log entry 24's: the model's choices. -/
def Obligations.ComfAndMovfSetZOnly : Prop :=
  FileRule .comf 0b001001 (fun f s => BitVec.ofNat 8 (255 - (fileRead f s).toNat))
      (fun f s => some (decide (fileRead f s = 0xFF))) (fun _ _ => none) (fun _ _ => none) ∧
    FileRule .movf 0b001000 (fun f s => fileRead f s)
      (fun f s => some (decide (fileRead f s = 0))) (fun _ _ => none) (fun _ _ => none)

/-- R91, R93: DECF and INCF count modulo 256 and set Z alone; C and DC are not affected. A
destination PCL is log entry 5's, a recorded write log entry 24's: the model's choices. -/
def Obligations.IncfAndDecfSetZOnly : Prop :=
  FileRule .incf 0b001010 (fun f s => BitVec.ofNat 8 ((fileRead f s).toNat + 1))
      (fun f s => some (decide (fileRead f s = 0xFF))) (fun _ _ => none) (fun _ _ => none) ∧
    FileRule .decf 0b000011 (fun f s => BitVec.ofNat 8 ((fileRead f s).toNat + 255))
      (fun f s => some (decide (fileRead f s = 1))) (fun _ _ => none) (fun _ _ => none)

/-- R92, R94: DECFSZ and INCFSZ count modulo 256, affect no flag, and skip exactly when the result
is 0, but that a destination PCL wins over the skip (log entry 20, DEDUCED). A destination PCL is
log entry 5's, a recorded write log entry 24's: the model's choices. -/
def Obligations.CountAndSkipOnZero : Prop :=
  FileSkipRule .decfsz 0b001011 (fun f s => BitVec.ofNat 8 ((fileRead f s).toNat + 255)) ∧
    FileSkipRule .incfsz 0b001111 (fun f s => BitVec.ofNat 8 ((fileRead f s).toNat + 1))

/-- R99, R100: RLF and RRF rotate the nine bits C : f by one; C takes the bit that leaves, Z and DC
are not affected (D14 is the spec's own reading). A destination PCL is log entry 5's, a recorded
write log entry 24's: the model's choices. -/
def Obligations.RotatesGoThroughCarry : Prop :=
  FileRule .rlf 0b001101
      (fun f s => BitVec.ofNat 8 (2 * (fileRead f s).toNat + (s.status.getLsbD 0).toNat))
      (fun _ _ => none) (fun _ _ => none)
      (fun f s => some (decide (128 ≤ (fileRead f s).toNat))) ∧
    FileRule .rrf 0b001100
      (fun f s => BitVec.ofNat 8 ((fileRead f s).toNat / 2 + 128 * (s.status.getLsbD 0).toNat))
      (fun _ _ => none) (fun _ _ => none)
      (fun f s => some (decide ((fileRead f s).toNat % 2 = 1)))

/-- R102: SWAPF stores f with its nibbles exchanged and affects no flag. A destination PCL is log
entry 5's, a recorded write log entry 24's: the model's choices. -/
def Obligations.SwapfExchangesNibbles : Prop :=
  FileRule .swapf 0b001110
    (fun f s => BitVec.ofNat 8 ((fileRead f s).toNat % 16 * 16 + (fileRead f s).toNat / 16))
    (fun _ _ => none) (fun _ _ => none) (fun _ _ => none)

/-- R88, R97: CLRF stores 0 and sets Z, MOVWF stores W and affects no flag; neither reads f, so the
model's own `draws` is unchanged too. That MOVWF to TMR0 clears the prescaler is the spec's decision
D32. A destination PCL is log entry 5's, a recorded write log entry 24's: the model's choices. -/
def Obligations.ClrfAndMovwfStoreWithoutReading : Prop :=
  ∀ (f : FileAddr) (s : State),
    decode (0b000001#6 ++ 1#1 ++ f) = .ok (.clrf f) ∧
    decode (0b000000#6 ++ 1#1 ++ f) = .ok (.movwf f) ∧
    (∃ t, exec (.clrf f) s = .next t ∧ Stores f .f 0 (some true) none none (s.pc + 1) s t ∧
      t.draws = s.draws) ∧
    (∃ t, exec (.movwf f) s = .next t ∧ Stores f .f s.w none none none (s.pc + 1) s t ∧
      t.draws = s.draws) ∧
    cycles (.clrf f) s = (if target f s = .pcl then 2 else 1) ∧
    cycles (.movwf f) s = (if target f s = .pcl then 2 else 1)

/-- R89, R98: CLRW clears W and sets Z, NOP does nothing; for every value of their don't-care bits.
-/
def Obligations.ClrwAndNopTouchNoFileRegister : Prop :=
  ∀ (s : State),
    (∀ x : BitVec 7, decode (0b0000010#7 ++ x) = .ok .clrw) ∧
    (∀ x : BitVec 2, decode (0b0000000#7 ++ x ++ 0b00000#5) = .ok .nop) ∧
    (∃ t, exec .clrw s = .next t ∧ StoresW 0 (some true) none none s t) ∧
    exec .nop s = .next { s with pc := s.pc + 1 } ∧
    cycles .clrw s = 1 ∧ cycles .nop s = 1

/-! ## Bit-oriented file register operations -/

/-- R111, R112: BCF and BSF write back the whole byte with bit b clear or set. A destination PCL is
log entry 5's, a recorded write log entry 24's: the model's choices. -/
def Obligations.BcfAndBsfWriteTheWholeByte : Prop :=
  BitWriteRule .bcf 0b0100 (fun f b s =>
      BitVec.ofNat 8 ((fileRead f s).toNat -
        ((fileRead f s).getLsbD b.toNat).toNat * 2 ^ b.toNat)) ∧
    BitWriteRule .bsf 0b0101 (fun f b s =>
      BitVec.ofNat 8 ((fileRead f s).toNat +
        (!(fileRead f s).getLsbD b.toNat).toNat * 2 ^ b.toNat))

/-- R113, R114: BTFSC skips when bit b is 0, BTFSS when it is 1, b from 0 to 7; they write nothing.
-/
def Obligations.BitTestsSkipAndWriteNothing : Prop :=
  BitTestRule .btfsc 0b0110 false ∧ BitTestRule .btfss 0b0111 true

/-! ## Literal and control operations -/

/-- R120, R131: ADDLW adds k to W, SUBLW subtracts W from k, with the carries of R80 and the
not-borrows of R81. -/
def Obligations.AddlwAndSublwSetAllFlags : Prop :=
  LiteralRule 5 1 rfl .addlw 0b11111 (fun k s => BitVec.ofNat 8 (s.w.toNat + k.toNat))
      (fun k s => some (decide ((s.w.toNat + k.toNat) % 256 = 0)))
      (fun k s => some (decide (16 ≤ s.w.toNat % 16 + k.toNat % 16)))
      (fun k s => some (decide (256 ≤ s.w.toNat + k.toNat))) ∧
    LiteralRule 5 1 rfl .sublw 0b11110 (fun k s => BitVec.ofNat 8 (256 + k.toNat - s.w.toNat))
      (fun k s => some (decide (k.toNat = s.w.toNat)))
      (fun k s => some (decide (s.w.toNat % 16 ≤ k.toNat % 16)))
      (fun k s => some (decide (s.w.toNat ≤ k.toNat)))

/-- R121, R125, R132, R126: ANDLW, IORLW, XORLW combine W with k and set Z alone; MOVLW loads k and
affects no flag. -/
def Obligations.LogicLiteralsAndMovlw : Prop :=
  LiteralRule 6 0 rfl .andlw 0b111001 (fun k s => s.w &&& k)
      (fun k s => some (decide (s.w &&& k = 0))) (fun _ _ => none) (fun _ _ => none) ∧
    LiteralRule 6 0 rfl .iorlw 0b111000 (fun k s => s.w ||| k)
      (fun k s => some (decide (s.w = 0 ∧ k = 0))) (fun _ _ => none) (fun _ _ => none) ∧
    LiteralRule 6 0 rfl .xorlw 0b111010 (fun k s => s.w ^^^ k)
      (fun k s => some (decide (s.w = k))) (fun _ _ => none) (fun _ _ => none) ∧
    LiteralRule 4 2 rfl .movlw 0b1100 (fun k _ => k)
      (fun _ _ => none) (fun _ _ => none) (fun _ _ => none)

/-- R124: GOTO k continues at 2048 * PCLATH<4:3> + k and changes nothing else. -/
def Obligations.GotoLoadsElevenBitsAndPclath : Prop :=
  ∀ (k : BitVec 11) (s : State),
    decode (0b101#3 ++ k) = .ok (.goto k) ∧
    exec (.goto k) s =
      .next { s with pc := BitVec.ofNat 13 (s.pclath.toNat / 8 * 2048 + k.toNat) } ∧
    cycles (.goto k) s = 2

/-- R122 with the stack as log entry 3 says (the model's choice where R19 refuses): CALL k puts pc +
1 on the top of the stack, continues at 2048 * PCLATH<4:3> + k and changes nothing else; while fewer
than eight entries are live the new entry stands before all of them. -/
def Obligations.CallPushesTheReturnAddress : Prop :=
  ∀ (k : BitVec 11) (s : State),
    decode (0b100#3 ++ k) = .ok (.call k) ∧
    (∃ t, exec (.call k) s = .next t ∧
      t = { s with pc := BitVec.ofNat 13 (s.pclath.toNat / 8 * 2048 + k.toNat), stack := t.stack } ∧
      t.stack.top = s.pc + 1 ∧
      (s.stack.live < 8 → t.stack.entries = (s.pc + 1) :: s.stack.entries)) ∧
    cycles (.call k) s = 2

/-- R129, R128, with the stack as log entry 3 says: RETURN and RETLW continue at the top of the
stack and pop it; RETLW also loads k into W. Nothing else changes, for every value of RETLW's
don't-care bits. From a stack in its invariant with a live entry, the entries below the top remain.
-/
def Obligations.ReturnsPopTheStack : Prop :=
  ∀ (k : Byte) (x : BitVec 2) (s : State),
    decode 0b00000000001000 = .ok .ret ∧
    decode (0b1101#4 ++ x ++ k) = .ok (.retlw k) ∧
    (∃ t, exec .ret s = .next t ∧ t = { s with pc := s.stack.top, stack := t.stack } ∧
      exec (.retlw k) s = .next { t with w := k } ∧
      (s.Inv → 0 < s.stack.live →
        s.stack.entries = t.pc :: t.stack.entries)) ∧
    cycles .ret s = 2 ∧ cycles (.retlw k) s = 2

/-- R127, R148, with the stack as log entry 3 says: RETFIE continues at the top of the stack, pops
it, and sets GIE; W, STATUS, the other bits of INTCON and everything else are unchanged. -/
def Obligations.RetfieReturnsAndSetsGie : Prop :=
  ∀ (s : State),
    decode 0b00000000001001 = .ok .retfie ∧
    (∃ t, exec .retfie s = .next t ∧
      t = { s with pc := s.stack.top, stack := t.stack, intcon := t.intcon } ∧
      t.gie = true ∧ (∀ i, i < 7 → t.intcon.getLsbD i = s.intcon.getLsbD i) ∧
      (s.Inv → 0 < s.stack.live → s.stack.entries = t.pc :: t.stack.entries)) ∧
    cycles .retfie s = 2

/-- R123: CLRWDT clears the watchdog, and the prescaler if it is assigned to the watchdog, and sets
TO and PD; the other bits of STATUS and everything else are unchanged. That OPTION_REG bit 3 assigns
the prescaler is R35 (general knowledge of the spec); that a prescaler assigned to Timer0 stays is
the spec's resolution C9. -/
def Obligations.ClrwdtClearsWatchdogSetsToPd : Prop :=
  ∀ (s : State),
    decode 0b00000001100100 = .ok .clrwdt ∧
    (∃ t, exec .clrwdt s = .next t ∧
      t = { s with pc := s.pc + 1, wdt := 0, status := t.status,
                   prescaler := if s.optionReg.getLsbD 3 then 0 else s.prescaler } ∧
      t.status.getLsbD 4 = true ∧ t.status.getLsbD 3 = true ∧
      (∀ i, i ≠ 4 → i ≠ 3 → t.status.getLsbD i = s.status.getLsbD i)) ∧
    cycles .clrwdt s = 1

/-- R130: SLEEP clears the watchdog, and the prescaler if it is assigned to the watchdog, sets TO,
clears PD, advances pc and stops the processor; everything else is unchanged. -/
def Obligations.SleepStopsWithToSetPdClear : Prop :=
  ∀ (s : State),
    decode 0b00000001100011 = .ok .sleep ∧
    (∃ t, exec .sleep s = .next t ∧
      t = { s with pc := s.pc + 1, wdt := 0, sleeping := true, status := t.status,
                   prescaler := if s.optionReg.getLsbD 3 then 0 else s.prescaler } ∧
      t.status.getLsbD 4 = true ∧ t.status.getLsbD 3 = false ∧
      (∀ i, i ≠ 4 → i ≠ 3 → t.status.getLsbD i = s.status.getLsbD i)) ∧
    cycles .sleep s = 1

/-- R133, R134, enabled as log entry 6 says (the spec refuses them by default): OPTION copies W to
OPTION_REG, TRIS 5 copies the low five bits of W to TRISA, TRIS 6 copies W to TRISB; each write is
recorded and nothing else changes. -/
def Obligations.OptionAndTrisCopyW : Prop :=
  ∀ (s : State),
    decode 0x0062 = .ok .option ∧ decode 0x0065 = .ok .trisA ∧ decode 0x0066 = .ok .trisB ∧
    exec .option s = .next { s with
      pc := s.pc + 1, optionReg := s.w, outputs := ⟨.optionReg, s.w⟩ :: s.outputs } ∧
    exec .trisA s = .next { s with
      pc := s.pc + 1, trisA := BitVec.ofNat 5 s.w.toNat, outputs := ⟨.trisA, s.w⟩ :: s.outputs } ∧
    exec .trisB s = .next { s with
      pc := s.pc + 1, trisB := s.w, outputs := ⟨.trisB, s.w⟩ :: s.outputs } ∧
    cycles .option s = 1 ∧ cycles .trisA s = 1 ∧ cycles .trisB s = 1

/-! ## Addressing and the data memory map -/

/-- R42: a direct address is the bank of RP0 and the seven bits of f, whatever IRP and RP1 hold
(D31, log entry 29). R43: every f but 0 is addressed directly; this is general knowledge of the spec
(PRESUMED, log entry 5). -/
def Obligations.DirectAddressUsesRp0Only : Prop :=
  ∀ (f : FileAddr) (s : State),
    (eaDirect f s).toNat = (if s.status.getLsbD 5 then 128 else 0) + f.toNat ∧
    (∀ v : Byte, v.getLsbD 5 = s.status.getLsbD 5 → eaDirect f (s.setStatus v) = eaDirect f s) ∧
    (f ≠ 0 → ea f s = eaDirect f s)

/-- R44, R45: an effective address with location 0Ch to 4Fh reaches the general-purpose byte of its
location in either bank, 50h to 7Fh is not implemented, 00h to 0Bh is no general-purpose byte, 03h
is STATUS in either bank. -/
def Obligations.DataMapFollowsTheLocation : Prop :=
  ∀ a : DataAddr,
    (0x0C ≤ a.toNat % 128 → a.toNat % 128 ≤ 0x4F →
      resolve a = .gpr (BitVec.ofNat 7 (a.toNat % 128))) ∧
    (0x50 ≤ a.toNat % 128 → resolve a = .unimplemented) ∧
    (a.toNat % 128 ≤ 0x0B → ∀ l : FileAddr, resolve a ≠ .gpr l) ∧
    (a.toNat % 128 = 0x03 ↔ resolve a = .status)

/-- R44: what MOVWF stores at a general-purpose location with one bank selected, a read of the same
location returns with either bank selected. -/
def Obligations.BanksShareGeneralPurposeBytes : Prop :=
  ∀ (f : FileAddr) (s : State), 0x0C ≤ f.toNat → f.toNat ≤ 0x4F →
    ∃ t, exec (.movwf f) s = .next t ∧ ∀ v : Byte, fileRead f (t.setStatus v) = s.w

/-- R58 (general knowledge of the spec, log entry 21): at the locations 50h to 7Fh and 07h of either
bank a read gives 0 and a write of any value changes nothing; MOVWF there changes nothing but pc. -/
def Obligations.UnimplementedReadsZeroIgnoresWrites : Prop :=
  ∀ (a : DataAddr) (s : State), (0x50 ≤ a.toNat % 128 ∨ a.toNat % 128 = 0x07) →
    readReg (resolve a) s = 0 ∧ (∀ v, writeReg (resolve a) v s = s) ∧
    ∀ f, ea f s = a → exec (.movwf f) s = .next { s with pc := s.pc + 1 }

/-- R43 (general knowledge of the spec, log entry 5): f = 0 reads and writes the register FSR points
at; if that is INDF itself, a read gives 0 and MOVWF changes nothing but pc. -/
def Obligations.IndfRedirectsThroughFsr : Prop :=
  ∀ (s : State),
    ea 0 s = s.fsr ∧
    (∀ f, f ≠ 0 → ea f s = s.fsr → ∀ d, exec (.movf 0 d) s = exec (.movf f d) s) ∧
    (s.fsr.toNat % 128 = 0 →
      fileRead 0 s = 0 ∧ exec (.movwf 0) s = .next { s with pc := s.pc + 1 })

/-- R18, the source's example "000u u1uu": CLRF with STATUS as destination, however it is reached,
clears the upper three bits and sets Z, and leaves TO, PD, DC and C. -/
def Obligations.ClrfStatusLeavesToPdDcC : Prop :=
  ∀ (f : FileAddr) (s : State), target f s = .status →
    ∃ t, exec (.clrf f) s = .next t ∧
      t.status = BitVec.ofNat 8 (s.status.toNat % 32 / 8 * 8 + 4 + s.status.toNat % 4)

/-- R17: MOVWF with STATUS as destination, however it is reached, stores bits 7:5 and 2:0 of W and
leaves TO and PD. R16, R46: what MOVF f,0 loads into W, by the effective address: STATUS, FSR,
PCLATH, INTCON or the general-purpose byte as it is; the pins of PORTA or PORTB (R27); the low byte
of pc + 1 for PCL (R33); OPTION_REG, TRISA or TRISB as last written; for TMR0, EEDATA, EEADR, EECON1
and EECON2 a drawn byte (D22), a free value of log entries 11 and 12. The addresses but STATUS's,
and PCL and the registers of bank 1 that read as last written, are log entry 5's (PRESUMED). INDF
and the locations not implemented have their own statements. -/
def Obligations.MovfReadsEachRegisterMovwfStatusLeavesToPd : Prop :=
  ∀ (f : FileAddr) (s : State),
    (target f s = .status →
      exec (.movwf f) s = .next { s with
        pc := s.pc + 1
        status := BitVec.ofNat 8
          (s.w.toNat / 32 * 32 + s.status.toNat % 32 / 8 * 8 + s.w.toNat % 8) }) ∧
    ∃ t, exec (.movf f .w) s = .next t ∧
      ((ea f s).toNat % 128 = 0x02 → t.w.toNat = (s.pc.toNat + 1) % 256) ∧
      ((ea f s).toNat % 128 = 0x03 → t.w = s.status) ∧
      ((ea f s).toNat % 128 = 0x04 → t.w = s.fsr) ∧
      ((ea f s).toNat % 128 = 0x0A → t.w.toNat = s.pclath.toNat) ∧
      ((ea f s).toNat % 128 = 0x0B → t.w = s.intcon) ∧
      ((ea f s).toNat = 0x05 → t.w.toNat = s.pinsA.toNat) ∧
      ((ea f s).toNat = 0x06 → t.w = s.pinsB) ∧
      ((ea f s).toNat = 0x81 → t.w = s.optionReg) ∧
      ((ea f s).toNat = 0x85 → t.w.toNat = s.trisA.toNat) ∧
      ((ea f s).toNat = 0x86 → t.w = s.trisB) ∧
      ((ea f s).toNat = 0x01 → target f s = .tmr0 ∧ t.w = Config.envByte 0x01 s.tmr0 s.draws) ∧
      ((ea f s).toNat = 0x08 →
        target f s = .eedata ∧ t.w = Config.envByte 0x08 s.eedata s.draws) ∧
      ((ea f s).toNat = 0x09 → target f s = .eeadr ∧ t.w = Config.envByte 0x09 s.eeadr s.draws) ∧
      ((ea f s).toNat = 0x88 →
        target f s = .eecon1 ∧ t.w = Config.envByte 0x88 (s.eecon1.setWidth 8) s.draws) ∧
      ((ea f s).toNat = 0x89 → target f s = .eecon2 ∧ t.w = Config.envByte 0x89 0 s.draws) ∧
      (0x0C ≤ (ea f s).toNat % 128 → (ea f s).toNat % 128 ≤ 0x4F →
        t.w = Memory.read s.gpr ((ea f s).toNat % 128))

/-- R27, R176: MOVF PORTB,1 and MOVF PORTA,1 write the levels on the pins into the data latch; the
other latch and the pins are unchanged. -/
def Obligations.PortReadModifyWriteCopiesPins : Prop :=
  ∀ (f : FileAddr) (s : State),
    (target f s = .portB →
      ∃ t, exec (.movf f .f) s = .next t ∧ t.portB = s.pinsB ∧ t.pinsB = s.pinsB ∧
        t.portA = s.portA) ∧
    (target f s = .portA →
      ∃ t, exec (.movf f .f) s = .next t ∧ t.portA = s.pinsA ∧ t.pinsA = s.pinsA ∧
        t.portB = s.portB)

/-- R33, enabled as log entry 5 says (the spec refuses PCL by default): ADDWF PCL,1 at address A
continues at PCLATH : ((A + 1)[7:0] + W)[7:0] and takes two cycles. -/
def Obligations.AddwfPclIsAComputedJump : Prop :=
  ∀ (f : FileAddr) (s : State), target f s = .pcl →
    ∃ t, exec (.addwf f .f) s = .next t ∧
      t.pc.toNat = s.pclath.toNat * 256 + ((s.pc.toNat + 1) % 256 + s.w.toNat) % 256 ∧
      t.pclath = s.pclath ∧ cycles (.addwf f .f) s = 2

/-! ## The machine as a whole -/

/-- A step runs the decoded instruction: awake, no reset and no effective time-out, no interrupt
entry due (after a wake-up none is, log entry 16), the step is the execution of the instruction at
pc in the state with the levels, counts and flags ENV gives at the boundary, a wake-up over. With
ENV quiet that is the state itself, ENV's used-up input gone. R40: what is fetched at a is the
program word at a mod 1024 (PROG_WORDS, log entry 7), 3FFFh where none was programmed (log entry 8).
-/
def Obligations.StepRunsTheDecodedInstruction : Prop :=
  (∀ (s : State) (i : Instr), s.sleeping = false → s.Undisturbed → s.raised.entersInterrupt = false →
    decode (progRead s.pc s) = .ok i → i.wellFormed = true →
    step s = exec i { s.raised with resuming := false }) ∧
  (∀ s : State, s.EnvQuiet → s.Undisturbed ∧ s.raised = { s with env := s.env.tail }) ∧
  ∀ (s : State) (a : ProgAddr), Program.wf s.prog = true →
    (∀ iw, (a.toNat % 1024, iw) ∈ s.prog → progRead a s = iw) ∧
    ((∀ iw, (a.toNat % 1024, iw) ∉ s.prog) → progRead a s = 0x3FFF)

/-- R140, R141: a step never faults; it is refused only when an instruction is due and the word at
pc is assigned to no instruction. That the machine runs where R163 has a model refuse is the model's
choice: a full or empty stack (log entry 3), PCL (log entry 5), OPTION and TRIS (log entry 6),
registers never written (log entries 1, 2). The default profile beside it refuses what the machine
refuses, interrupt entry with a full stack, an instruction that would overflow or underflow the
stack, OPTION and TRIS, and an instruction whose file operand resolves to PCL; of the registers
never written it refuses no read, they hold named values. It refuses nothing else. Where it takes a
step that step is the machine's, and it leaves the entries of R19's STACK as they were, with one
pushed, with one popped, or empty. -/
def Obligations.OnlyUnassignedWordsAreRefused : Prop :=
  (∀ s : State, (∃ t, step s = .next t) ∨
    ∃ u iw, boundary s = .running u ∧ u.pc = s.pc ∧ u.prog = s.prog ∧
      fetch u = .error (.unassigned iw) ∧ iw = progRead s.pc s ∧
      step s = .refused (.unassignedWord iw)) ∧
  (∀ s t : State, defaultStep s = .next t → step s = .next t ∧ (s.Inv →
    t.stack.entries = s.stack.entries ∨ (∃ v, t.stack.entries = v :: s.stack.entries) ∨
      (∃ v, s.stack.entries = v :: t.stack.entries) ∨ t.stack.entries = [])) ∧
  (∀ (s : State) (r : Refusal), step s = .refused r → defaultStep s = .refused (.ofStep r)) ∧
  (∀ s u : State, boundary s = .entering u → 8 ≤ u.stack.live →
    defaultStep s = .refused .stackOverflow) ∧
  (∀ (s u : State) (i : Instr), boundary s = .running u → fetch u = .ok i →
    (∀ k, i = .call k → 8 ≤ u.stack.live → defaultStep s = .refused .stackOverflow) ∧
    (i = .ret ∨ (∃ k, i = .retlw k) ∨ i = .retfie → u.stack.live = 0 →
      defaultStep s = .refused .stackUnderflow) ∧
    (i = .option ∨ i = .trisA ∨ i = .trisB → defaultStep s = .refused .optionOrTris) ∧
    (∀ f, fileOperand i = some f → target f u = .pcl → defaultStep s = .refused .pclAccess)) ∧
  ∀ s t : State, step s = .next t →
    (∀ u, boundary s = .entering u → u.stack.live < 8) →
    (∀ u i, boundary s = .running u → fetch u = .ok i →
      stackSafe i u ∧ i ≠ .option ∧ i ≠ .trisA ∧ i ≠ .trisB ∧
        ∀ f, fileOperand i = some f → target f u ≠ .pcl) →
    defaultStep s = .next t

/-- The invariant of the machine is kept by every step. -/
def Obligations.EveryStepKeepsTheInvariant : Prop :=
  ∀ s t : State, s.Inv → step s = .next t → t.Inv

/-- The machine right after reset meets the invariant. -/
def Obligations.ResetMeetsTheInvariant : Prop := State.reset.Inv

/-- R171: what Power-on Reset leaves, as far as the spec gives values. -/
def Obligations.ResetLeavesTheStatedValues : Prop :=
  State.reset.pc = 0x0000 ∧ State.reset.status.extractLsb' 3 5 = 0b00011#5 ∧
    State.reset.stack.entries = [] ∧ State.reset.pclath = 0 ∧
    State.reset.intcon.extractLsb' 1 7 = 0#7 ∧ State.reset.optionReg = 0xFF ∧
    State.reset.trisA = 0x1F ∧ State.reset.trisB = 0xFF ∧
    State.reset.eecon1.getLsbD 4 = false ∧ State.reset.eecon1.extractLsb' 0 3 = 0#3 ∧
    State.reset.wdt = 0 ∧ State.reset.prescaler = 0 ∧ State.reset.sleeping = false ∧
    State.reset.configWord = 0x3FFF ∧ ∀ a, progRead a State.reset = 0x3FFF

/-- R56, R23: no step writes program memory or the configuration word. -/
def Obligations.ProgramMemoryAndConfigNeverChange : Prop :=
  ∀ s t : State, step s = .next t → t.prog = s.prog ∧ t.configWord = s.configWord

/-- R56, R179: no instruction depends on program memory: with any other program memory it does the
same, so a skipped word has no effect whatever it is. -/
def Obligations.ExecutionIgnoresProgramMemory : Prop :=
  ∀ (i : Instr) (s t : State) (p : Program), exec i s = .next t →
    exec i { s with prog := p } = .next { t with prog := p }

/-- R29: a step that changes TO or PD executed CLRWDT or SLEEP, or the boundary brought a reset or a
watchdog time-out. -/
def Obligations.ToPdChangeOnlyByTheirEvents : Prop :=
  ∀ s t : State, step s = .next t → t.status.extractLsb' 3 2 ≠ s.status.extractLsb' 3 2 →
    s.input.reset ≠ none ∨ (s.input.wdtTimeout = true ∧ s.configWord.getLsbD 2 = true) ∨
      decode (progRead s.pc s) = .ok .clrwdt ∨ decode (progRead s.pc s) = .ok .sleep

/-- R26: only the SLEEP instruction puts the processor into SLEEP. -/
def Obligations.OnlySleepEntersSleep : Prop :=
  ∀ s t : State, step s = .next t → s.sleeping = false → t.sleeping = true →
    decode (progRead s.pc s) = .ok .sleep

/-- R52, R54: an instruction changes at most the one general-purpose byte its file operand resolves
to. -/
def Obligations.AtMostTheOperandByteChanges : Prop :=
  ∀ (i : Instr) (s : State) (l : FileAddr), ∃ t, exec i s = .next t ∧
    ((∀ f, fileOperand i = some f → target f s ≠ .gpr l) →
      Memory.read t.gpr l.toNat = Memory.read s.gpr l.toNat)

/-- R20: PCLATH changes in an execution only when it is the destination; a change of pc does not
update it. A step that changes it executed such an instruction, or the boundary brought a reset or,
while executing with WDTE = 1, a time-out. -/
def Obligations.PclathChangesOnlyAsDestinationOrByReset : Prop :=
  (∀ (i : Instr) (s : State), ∃ t, exec i s = .next t ∧
    ((∀ f, (writtenBy i).file = some f → target f s ≠ .pclath) → t.pclath = s.pclath)) ∧
  ∀ s t : State, step s = .next t → t.pclath ≠ s.pclath →
    s.input.reset ≠ none ∨
      (s.sleeping = false ∧ s.input.wdtTimeout = true ∧ s.configWord.getLsbD 2 = true) ∨
      ∃ i f, decode (progRead s.pc s) = .ok i ∧ (writtenBy i).file = some f ∧
        target f s = .pclath

/-- R182: an instruction that does not continue at pc + 1 takes two cycles. -/
def Obligations.ChangedPcTakesTwoCycles : Prop :=
  ∀ (i : Instr) (s : State), ∃ t, exec i s = .next t ∧
    (t.pc ≠ s.pc + 1 → cycles i s = 2) ∧ (cycles i s = 1 → t.pc = s.pc + 1)

/-- R183: a GOTO to its own address, awake, ENV quiet for the rest of the run, no interrupt entry
due: the step changes nothing but that a wake-up is over, and where GIE and a request do not stand
together the state it answers, which is the state itself if the processor was not just woken, is a
fixed point of the machine. (Just woken with GIE set and a request standing, the step is this GOTO
and the next one interrupt entry: log entry 16.) -/
def Obligations.GotoItselfIsAFixedPoint : Prop :=
  ∀ (s : State) (k : BitVec 11), s.sleeping = false → s.env = [] → s.entersInterrupt = false →
    decode (progRead s.pc s) = .ok (.goto k) →
    s.pc.toNat = s.pclath.toNat / 8 * 2048 + k.toNat →
    step s = .next { s with resuming := false } ∧ (s.resuming = false → step s = .next s) ∧
    (s.takesInterrupt = false →
      step { s with resuming := false } = .next { s with resuming := false })

/-- R164: under the conservative profile no interrupt is taken and every step is the execution of
the instruction at pc, in the state with the flags, levels and counts ENV gives at the boundary; and
a step of an instruction other than RETFIE and SLEEP that does not write INTCON stays in the
profile. -/
def Obligations.ConservativeStepIsAnInstruction : Prop :=
  ∀ s : State, s.Conservative →
    (raiseFlags s.input false s.driven).takesInterrupt = false ∧
    step s = runInstruction (raiseFlags s.input false s.driven) ∧
    (s.env = [] → step s = runInstruction s) ∧
    ∀ i, decode (progRead s.pc s) = .ok i → i ≠ .retfie → i ≠ .sleep →
      (∀ f, (writtenBy i).file = some f → target f s ≠ .intcon) →
      ∃ t, step s = .next t ∧ t.Conservative

/-- The stack as log entry 3 says (R19 gives it as the chip's behaviour; its own pseudocode refuses
a push on a full stack and a pop of an empty one): a push on fewer than eight live entries puts the
new entry before them; a ninth overwrites the oldest; a pop of a live entry leaves the others. -/
def Obligations.StackIsLastInFirstOut : Prop :=
  ∀ (k : Stack) (v : ProgAddr), k.slots.length = 8 → k.live ≤ 8 →
    (k.push v).top = v ∧ (k.push v).slots.length = 8 ∧ k.pop.slots.length = 8 ∧
    (k.live < 8 → (k.push v).entries = v :: k.entries ∧ (k.push v).pop.entries = k.entries) ∧
    (k.live = 8 → (k.push v).entries = v :: k.entries.dropLast) ∧
    (0 < k.live → k.entries = k.top :: k.pop.entries)

/-- A CALL and, with pc anywhere, a RETURN: execution continues after the CALL, and with fewer than
eight live entries the stack's entries are as before. -/
def Obligations.ReturnUndoesCall : Prop :=
  ∀ (k : BitVec 11) (a : ProgAddr) (s : State), s.Inv → s.stack.live < 8 →
    ∃ t u, exec (.call k) s = .next t ∧ exec .ret { t with pc := a } = .next u ∧
      u.stack.entries = s.stack.entries ∧ u = { s with pc := s.pc + 1, stack := u.stack }

/-- RRF undoes RLF: on a general-purpose byte, rotating left and then right through carry restores
the byte and the carry. -/
def Obligations.RrfUndoesRlf : Prop :=
  ∀ (f : FileAddr) (l : FileAddr) (s : State), target f s = .gpr l →
    ∃ t u, exec (.rlf f .f) s = .next t ∧ exec (.rrf f .f) t = .next u ∧
      fileRead f u = fileRead f s ∧ u.status = s.status

/-! ## Interrupts, watchdog, sleep, reset -/

/-- R146, R144, R149, R143: awake and not just woken (log entry 16), no reset and no effective
time-out, GIE set and an enabled source requesting, its flag standing or set by ENV at this
boundary: the step is interrupt entry. It pushes pc, clears GIE and continues at 0x0004; nothing
else changes but what ENV gives at the boundary, and no second entry is due until GIE is set again.
-/
def Obligations.InterruptEntryPushesPcClearsGie : Prop :=
  ∀ s : State, s.sleeping = false → s.resuming = false → s.Undisturbed →
    s.raised.intcon.getLsbD 7 = true →
    ((s.raised.intcon.getLsbD 5 ∧ s.raised.intcon.getLsbD 2) ∨
      (s.raised.intcon.getLsbD 4 ∧ s.raised.intcon.getLsbD 1) ∨
      (s.raised.intcon.getLsbD 3 ∧ s.raised.intcon.getLsbD 0) ∨
      (s.raised.intcon.getLsbD 6 ∧ s.raised.eecon1.getLsbD 4)) →
    ∃ t, step s = .next t ∧
      t = { s.raised with pc := 0x0004, stack := s.stack.push s.pc, intcon := t.intcon } ∧
      t.intcon.getLsbD 7 = false ∧
      (∀ i, i < 7 → t.intcon.getLsbD i = s.raised.intcon.getLsbD i) ∧
      t.takesInterrupt = false

/-- R146, R148: RETFIE undoes interrupt entry: from a state with GIE set and fewer than eight live
entries, entry and then RETFIE, with pc anywhere, is back at pc with GIE set and the same entries.
-/
def Obligations.RetfieUndoesInterruptEntry : Prop :=
  ∀ (s : State) (a : ProgAddr), s.Inv → s.stack.live < 8 → s.gie = true →
    ∃ u, exec .retfie { interruptEntry s with pc := a } = .next u ∧
      u.stack.entries = s.stack.entries ∧ u = { s with stack := u.stack }

/-- R160: asleep, no reset and no effective time-out, no enabled source requesting: nothing runs and
nothing changes but what ENV gives at the boundary. -/
def Obligations.SleepHoldsUntilAWakeEvent : Prop :=
  ∀ s : State, s.sleeping = true → s.Undisturbed → s.raised.interruptRequest = false →
    step s = .next s.raised

/-- R161: asleep, no reset and no effective time-out, an enabled source requesting, its flag
standing or set by ENV at this boundary: the processor wakes, and the next step, with no reset and
no effective time-out either, runs the instruction after SLEEP whether GIE is set or not. That the
wake-up is a step of its own is the model's choice (log entry 16), and so is that a T0IF which stood
before SLEEP wakes (log entry 35). -/
def Obligations.InterruptWakesWhateverGieIs : Prop :=
  ∀ (s : State), s.sleeping = true → s.Undisturbed → s.raised.interruptRequest = true →
    ∃ t, step s = .next t ∧ t = { s.raised with sleeping := false, resuming := true } ∧
      ∀ i, t.Undisturbed → decode (progRead s.pc s) = .ok i →
        step t = exec i { t.raised with resuming := false }

/-- R153, R154, R172, R173: a time-out without another event at the boundary. While WDTE = 0 it has
no effect. While executing with WDTE = 1 the step is a reset: pc = 0 (RESET_VECTOR, log entry 7),
the stack empty (the spec's model choice D6), STATUS = 0000 1uuu, the registers of R172 cleared and
kept. In SLEEP with WDTE = 1 it wakes: TO = 0, PD kept, watchdog cleared, and the next step, with no
reset and no effective time-out, runs the instruction after SLEEP; that this is a step of its own is
the model's choice (log entry 16). -/
def Obligations.WatchdogTimeoutResetsOrWakes : Prop :=
  ∀ (s : State), s.input = { wdtTimeout := true } →
    (s.configWord.getLsbD 2 = false →
      step s = step { s with env := EnvInput.quiet :: s.env.tail }) ∧
    (s.configWord.getLsbD 2 = true → s.sleeping = false →
      ∃ t, step s = .next t ∧
        t.pc = 0x0000 ∧ t.sleeping = false ∧ t.stack.entries = [] ∧ t.pclath = 0 ∧
        t.optionReg = 0xFF ∧ t.trisA = 0x1F ∧ t.trisB = 0xFF ∧ t.wdt = 0 ∧ t.prescaler = 0 ∧
        t.intcon = BitVec.ofNat 8 (s.intcon.toNat % 2) ∧
        t.status = BitVec.ofNat 8 (8 + s.status.toNat % 8) ∧
        t.w = s.w ∧ t.fsr = s.fsr ∧ t.tmr0 = s.tmr0 ∧ t.gpr = s.gpr ∧ t.portA = s.portA ∧
        t.portB = s.portB ∧ t.eedata = s.eedata ∧ t.eeadr = s.eeadr ∧ t.prog = s.prog ∧
        t.configWord = s.configWord) ∧
    (s.configWord.getLsbD 2 = true → s.sleeping = true →
      ∃ t, step s = .next t ∧ t.status.getLsbD 4 = false ∧
        (∀ j, j ≠ 4 → t.status.getLsbD j = s.status.getLsbD j) ∧
        t = { s with
          sleeping := false, resuming := true, env := s.env.tail, status := t.status, wdt := 0,
          prescaler := if s.optionReg.getLsbD 3 then 0 else s.prescaler } ∧
        ∀ i, t.Undisturbed → decode (progRead s.pc s) = .ok i →
          step t = exec i { t.raised with resuming := false })

/-- R172, R173: an external RESET between instructions, without another event at the boundary. The
stated registers take their reset values, TO and PD are 1 0 in SLEEP and unchanged otherwise, and W,
Z, DC, C, FSR, TMR0, RBIF, the general-purpose bytes, the latches, EEDATA, EEADR and both memories
keep theirs. The empty stack is the spec's model choice D6, pc = 0 its RESET_VECTOR (log entry 7,
PRESUMED), and TO, PD = 1 0 in every state of SLEEP log entry 30 (DEDUCED). -/
def Obligations.ExternalResetKeepsAndClears : Prop :=
  ∀ (s : State), s.input = { reset := some .external } →
    ∃ t, step s = .next t ∧
      t.pc = 0x0000 ∧ t.sleeping = false ∧ t.stack.entries = [] ∧ t.pclath = 0 ∧
      t.optionReg = 0xFF ∧ t.trisA = 0x1F ∧ t.trisB = 0xFF ∧ t.wdt = 0 ∧ t.prescaler = 0 ∧
      t.intcon = BitVec.ofNat 8 (s.intcon.toNat % 2) ∧
      t.status = BitVec.ofNat 8
        ((if s.sleeping then 16 else s.status.toNat % 32 / 8 * 8) + s.status.toNat % 8) ∧
      t.w = s.w ∧ t.fsr = s.fsr ∧ t.tmr0 = s.tmr0 ∧ t.gpr = s.gpr ∧ t.portA = s.portA ∧
      t.portB = s.portB ∧ t.eedata = s.eedata ∧ t.eeadr = s.eeadr ∧ t.prog = s.prog ∧
      t.configWord = s.configWord

/-- R172, D27: an external RESET that cuts an instruction short leaves, of what R172 keeps, all that
is not the instruction's destination or a flag it affects: the general-purpose bytes, FSR, TMR0, the
latches, EEDATA, EEADR, W, Z, DC, C. What an instruction was writing is log entry 15's reading
(DEDUCED); pc = 0 is log entry 7's. -/
def Obligations.CutInstructionHarmsItsDestinationsOnly : Prop :=
  ∀ (s : State) (i : Instr), s.input = { reset := some .externalCut } → s.sleeping = false →
    decode (progRead s.pc s) = .ok i →
    ∃ t, step s = .next t ∧ t.pc = 0x0000 ∧
      (∀ r : FileReg, (∀ f, (writtenBy i).file = some f → target f s ≠ r) →
        (r = .fsr ∨ r = .tmr0 ∨ r = .portA ∨ r = .portB ∨ r = .eedata ∨ r = .eeadr ∨
          ∃ l, r = .gpr l) → held r t = held r s) ∧
      ((writtenBy i).w = false → t.w = s.w) ∧
      ((∀ f, (writtenBy i).file = some f → target f s ≠ .status) →
        ((writtenBy i).flags.z = none → t.status.getLsbD 2 = s.status.getLsbD 2) ∧
        ((writtenBy i).flags.dc = none → t.status.getLsbD 1 = s.status.getLsbD 1) ∧
        ((writtenBy i).flags.c = none → t.status.getLsbD 0 = s.status.getLsbD 0))

/-- R170, R172: after power is applied during a run the reset values of R171 stand again and program
memory and configuration word are unchanged; the unknown registers are free. The empty stack is the
spec's model choice D6, pc = 0 its RESET_VECTOR (log entry 7). -/
def Obligations.PowerOnRestoresTheStatedValues : Prop :=
  ∀ (s : State), s.input = { reset := some .powerOn } →
    ∃ t, step s = .next t ∧
      t.pc = State.reset.pc ∧ t.status.extractLsb' 3 5 = State.reset.status.extractLsb' 3 5 ∧
      t.stack.entries = [] ∧ t.pclath = State.reset.pclath ∧
      t.intcon.extractLsb' 1 7 = State.reset.intcon.extractLsb' 1 7 ∧
      t.optionReg = State.reset.optionReg ∧ t.trisA = State.reset.trisA ∧
      t.trisB = State.reset.trisB ∧ t.eecon1.getLsbD 4 = false ∧
      t.eecon1.extractLsb' 0 3 = 0#3 ∧ t.wdt = 0 ∧ t.prescaler = 0 ∧ t.sleeping = false ∧
      t.prog = s.prog ∧ t.configWord = s.configWord

/-- R143: at a boundary without reset and time-out, an event sets its flag whether enabled or not,
and no event clears one; Timer0 stands still in SLEEP (log entry 18). R27, R52: the pin levels ENV
gives at a boundary are the pins' after it, whatever else happens there, and without reset and
time-out so are the watchdog and prescaler counts; what ENV gives nothing for stays. -/
def Obligations.EventsSetFlagsHardwareClearsNone : Prop :=
  ∀ (s u : State),
    (boundary s = .running u ∨ boundary s = .entering u ∨ boundary s = .settled u) →
    u.pinsA = s.input.pinsA.getD s.pinsA ∧ u.pinsB = s.input.pinsB.getD s.pinsB ∧
    (s.input.reset = none → s.input.wdtTimeout = false →
      u.wdt = s.input.wdt.getD s.wdt ∧ u.prescaler = s.input.prescaler.getD s.prescaler ∧
      u.intcon.getLsbD 0 = (s.intcon.getLsbD 0 || s.input.portBChange) ∧
      u.intcon.getLsbD 1 = (s.intcon.getLsbD 1 || s.input.intEdge) ∧
      u.intcon.getLsbD 2 = (s.intcon.getLsbD 2 || (s.input.tmr0Overflow && !s.sleeping)) ∧
      u.eecon1.getLsbD 4 = (s.eecon1.getLsbD 4 || s.input.eepromDone))

/-! ## Encoding -/

/-- Decoding the assembler's word of an instruction gives it back, for every well-formed
instruction. -/
def Obligations.DecodeOfEncodeIsTheInstruction : Prop :=
  ∀ i : Instr, i.wellFormed = true → decode (encode i) = .ok i

/-- R67: a word decodes to an instruction of a row of the opcode map exactly when it matches that
row, and it matches no other row. OPTION and TRIS have rows by log entry 6. -/
def Obligations.WordsDecodeByTheirOneRow : Prop :=
  (∀ (iw : InstrWord) (i : Instr), decode iw = .ok i →
    ∀ j : Instr, j.row.matches iw = true ↔ j.row = i.row) ∧
  ∀ (iw : InstrWord) (j : Instr), j.row.matches iw = true →
    ∃ i, decode iw = .ok i ∧ i.row = j.row

/-- R69, R70: the words that decode to nothing are those of the spec's list, less OPTION and TRIS.
-/
def Obligations.UnassignedWordsAreTheListedOnes : Prop :=
  ∀ iw : InstrWord, decode iw = .error (.unassigned iw) ↔
    (1 ≤ iw.toNat ∧ iw.toNat ≤ 0x07) ∨ (0x0A ≤ iw.toNat ∧ iw.toNat ≤ 0x1F) ∨
      (0x21 ≤ iw.toNat ∧ iw.toNat ≤ 0x3F) ∨ (0x41 ≤ iw.toNat ∧ iw.toNat ≤ 0x5F) ∨
      iw.toNat = 0x61 ∨ (0x67 ≤ iw.toNat ∧ iw.toNat ≤ 0x7F) ∨
      (0x3B00 ≤ iw.toNat ∧ iw.toNat ≤ 0x3BFF)

/-- A few words written out from the encodings of R67 decode to their instructions. -/
def Obligations.WrittenOutWordsDecode : Prop :=
  decode 0b00_0111_1_0100000 = .ok (.addwf 0x20 .f) ∧
    decode 0b00_0010_0_0100001 = .ok (.subwf 0x21 .w) ∧
    decode 0b01_01_101_0000011 = .ok (.bsf 0x03 5) ∧
    decode 0b01_11_111_0100000 = .ok (.btfss 0x20 7) ∧
    decode 0b11_1110_00010101 = .ok (.addlw 0x15) ∧
    decode 0b11_0111_11111111 = .ok (.retlw 0xFF) ∧
    decode 0b10_0_00100100011 = .ok (.call 0x123) ∧
    decode 0b10_1_01111111111 = .ok (.goto 0x3FF)
end

