-- ==== Sys2Proof/Laws/Cells.lean ====
section
/-! SUPPORT. The laws of cell lists: a read after a write, and the canonical form is kept. -/

namespace Sys2Proof.Machine

variable {β : Type}

/-! ## Reads -/

@[simp] theorem cellRead_erase_same (d : β) (m : List (Nat × β)) (a : Nat) :
    cellRead d (cellErase m a) a = d := by
  induction m with
  | nil => rfl
  | cons c m ih =>
    obtain ⟨k, v⟩ := c
    by_cases h : k = a <;> simp [cellErase, cellRead, h, ih]

theorem cellRead_erase_other (d : β) (m : List (Nat × β)) {a b : Nat} (h : b ≠ a) :
    cellRead d (cellErase m a) b = cellRead d m b := by
  induction m with
  | nil => rfl
  | cons c m ih =>
    obtain ⟨k, v⟩ := c
    by_cases hk : k = a
    · have : ¬ a = b := fun e => h e.symm
      simp [cellErase, cellRead, hk, ih, this]
    · simp [cellErase, cellRead, hk, ih]

theorem cellRead_insert_same (d : β) (m : List (Nat × β)) (a : Nat) (v : β)
    (h : ∀ c ∈ m, c.1 ≠ a) : cellRead d (cellInsert m a v) a = v := by
  induction m with
  | nil => simp [cellInsert, cellRead]
  | cons c m ih =>
    obtain ⟨k, w⟩ := c
    have hk : k ≠ a := h _ (List.mem_cons_self ..)
    have hm : ∀ c ∈ m, c.1 ≠ a := fun c hc => h c (List.mem_cons_of_mem _ hc)
    by_cases hlt : a < k <;> simp [cellInsert, cellRead, hlt, hk, ih hm]

theorem cellRead_insert_other (d : β) (m : List (Nat × β)) {a b : Nat} (v : β) (h : b ≠ a) :
    cellRead d (cellInsert m a v) b = cellRead d m b := by
  have hab : ¬ a = b := fun e => h e.symm
  induction m with
  | nil => simp [cellInsert, cellRead, hab]
  | cons c m ih =>
    obtain ⟨k, w⟩ := c
    by_cases hlt : a < k <;> simp [cellInsert, cellRead, hlt, hab, ih]

theorem cellErase_ne (m : List (Nat × β)) (a : Nat) : ∀ c ∈ cellErase m a, c.1 ≠ a := by
  induction m with
  | nil => simp [cellErase]
  | cons c m ih =>
    obtain ⟨k, v⟩ := c
    by_cases h : k = a
    · simpa [cellErase, h] using ih
    · intro x hx
      simp only [cellErase, h, if_false, List.mem_cons] at hx
      rcases hx with rfl | hx
      · exact h
      · exact ih x hx

variable [DecidableEq β]

@[simp] theorem cellRead_write_same (d : β) (m : List (Nat × β)) (a : Nat) (v : β) :
    cellRead d (cellWrite d m a v) a = v := by
  by_cases h : v = d
  · simp [cellWrite, h]
  · simp [cellWrite, h, cellRead_insert_same d _ a v (cellErase_ne m a)]

theorem cellRead_write_other (d : β) (m : List (Nat × β)) {a b : Nat} (v : β) (h : b ≠ a) :
    cellRead d (cellWrite d m a v) b = cellRead d m b := by
  by_cases hv : v = d
  · simp [cellWrite, hv, cellRead_erase_other d m h]
  · simp [cellWrite, hv, cellRead_insert_other d _ v h, cellRead_erase_other d m h]

/-! ## The canonical form -/

omit [DecidableEq β] in
theorem cellsRiseFrom_weaken (m : List (Nat × β)) {a b : Nat} (h : a ≤ b)
    (hm : cellsRiseFrom b m = true) : cellsRiseFrom a m = true := by
  cases m with
  | nil => rfl
  | cons c m =>
    simp only [cellsRiseFrom, Bool.and_eq_true, decide_eq_true_eq] at hm ⊢
    exact ⟨by omega, hm.2⟩

omit [DecidableEq β] in
theorem cellErase_rises (m : List (Nat × β)) (a lo : Nat) (h : cellsRiseFrom lo m = true) :
    cellsRiseFrom lo (cellErase m a) = true := by
  induction m generalizing lo with
  | nil => rfl
  | cons c m ih =>
    obtain ⟨k, v⟩ := c
    simp only [cellsRiseFrom, Bool.and_eq_true, decide_eq_true_eq] at h
    by_cases hk : k = a
    · simpa [cellErase, hk] using ih lo (cellsRiseFrom_weaken m (by omega) h.2)
    · simp [cellErase, hk, cellsRiseFrom, h.1, ih k h.2]

omit [DecidableEq β] in
theorem cellInsert_rises (m : List (Nat × β)) (a : Nat) (v : β) (lo : Nat) (hlo : lo < a)
    (h : cellsRiseFrom lo m = true) (hne : ∀ c ∈ m, c.1 ≠ a) :
    cellsRiseFrom lo (cellInsert m a v) = true := by
  induction m generalizing lo with
  | nil => simp [cellInsert, cellsRiseFrom, hlo]
  | cons c m ih =>
    obtain ⟨k, w⟩ := c
    simp only [cellsRiseFrom, Bool.and_eq_true, decide_eq_true_eq] at h
    have hk : k ≠ a := hne _ (List.mem_cons_self ..)
    by_cases hlt : a < k
    · simp [cellInsert, hlt, cellsRiseFrom, hlo, h.2]
    · have := ih k (by omega) h.2 (fun c hc => hne c (List.mem_cons_of_mem _ hc))
      simp [cellInsert, hlt, cellsRiseFrom, h.1, this]

omit [DecidableEq β] in
theorem cellErase_rise (m : List (Nat × β)) (a : Nat) (h : cellsRise m = true) :
    cellsRise (cellErase m a) = true := by
  induction m with
  | nil => rfl
  | cons c m ih =>
    obtain ⟨k, v⟩ := c
    simp only [cellsRise] at h
    by_cases hk : k = a
    · have hm : cellsRise m = true := by
        cases m with
        | nil => rfl
        | cons c m =>
          simp only [cellsRiseFrom, Bool.and_eq_true] at h
          exact h.2
      simpa [cellErase, hk] using ih hm
    · simpa [cellErase, hk, cellsRise] using cellErase_rises m a k h

omit [DecidableEq β] in
theorem cellInsert_rise (m : List (Nat × β)) (a : Nat) (v : β) (h : cellsRise m = true)
    (hne : ∀ c ∈ m, c.1 ≠ a) : cellsRise (cellInsert m a v) = true := by
  cases m with
  | nil => rfl
  | cons c m =>
    obtain ⟨k, w⟩ := c
    simp only [cellsRise] at h
    have hk : k ≠ a := hne _ (List.mem_cons_self ..)
    by_cases hlt : a < k
    · simp [cellInsert, hlt, cellsRise, cellsRiseFrom, h]
    · have := cellInsert_rises m a v k (by omega) h (fun c hc => hne c (List.mem_cons_of_mem _ hc))
      simpa [cellInsert, hlt, cellsRise] using this

omit [DecidableEq β] in
theorem mem_cellErase (m : List (Nat × β)) (a : Nat) (c : Nat × β) (h : c ∈ cellErase m a) :
    c ∈ m := by
  induction m with
  | nil => simp [cellErase] at h
  | cons x m ih =>
    obtain ⟨k, v⟩ := x
    by_cases hk : k = a
    · exact List.mem_cons_of_mem _ (ih (by simpa [cellErase, hk] using h))
    · simp only [cellErase, hk, if_false, List.mem_cons] at h
      rcases h with rfl | h
      · exact List.mem_cons_self ..
      · exact List.mem_cons_of_mem _ (ih h)

omit [DecidableEq β] in
theorem mem_cellInsert (m : List (Nat × β)) (a : Nat) (v : β) (c : Nat × β)
    (h : c ∈ cellInsert m a v) : c = (a, v) ∨ c ∈ m := by
  induction m with
  | nil => simpa [cellInsert] using h
  | cons x m ih =>
    obtain ⟨k, w⟩ := x
    by_cases hlt : a < k
    · simpa [cellInsert, hlt] using h
    · simp only [cellInsert, hlt, if_false, List.mem_cons] at h
      rcases h with rfl | h
      · exact .inr (List.mem_cons_self ..)
      · exact (ih h).imp id (List.mem_cons_of_mem _)

/-- A property of every cell is kept by a write of a cell that has it. -/
theorem cellWrite_forall (d : β) (m : List (Nat × β)) (a : Nat) (v : β) (P : Nat × β → Prop)
    (h : ∀ c ∈ m, P c) (hnew : v ≠ d → P (a, v)) : ∀ c ∈ cellWrite d m a v, P c := by
  intro c hc
  by_cases hv : v = d
  · simp only [cellWrite, hv, if_true] at hc
    exact h c (mem_cellErase m a c hc)
  · simp only [cellWrite, hv, if_false] at hc
    rcases mem_cellInsert _ a v c hc with rfl | hc
    · exact hnew hv
    · exact h c (mem_cellErase m a c hc)

/-- A write keeps the canonical form. -/
theorem cellWrite_wf (d : β) (m : List (Nat × β)) (a : Nat) (v : β) (h : cellsWf d m = true) :
    cellsWf d (cellWrite d m a v) = true := by
  simp only [cellsWf, Bool.and_eq_true, List.all_eq_true] at h ⊢
  refine ⟨?_, ?_⟩
  · by_cases hv : v = d
    · simpa [cellWrite, hv] using cellErase_rise m a h.1
    · simpa [cellWrite, hv] using
        cellInsert_rise _ a v (cellErase_rise m a h.1) (cellErase_ne m a)
  · exact cellWrite_forall d m a v (fun c => (c.2 != d) = true) h.2 (fun hv => by simpa using hv)

/-! ## Data memory and program memory -/

@[simp] theorem memory_read_write_same (m : Memory) (a : Nat) (v : Byte) :
    Memory.read (Memory.write m a v) a = v := cellRead_write_same _ m a v

theorem memory_read_write_other (m : Memory) {a b : Nat} (v : Byte) (h : b ≠ a) :
    Memory.read (Memory.write m a v) b = Memory.read m b := cellRead_write_other _ m v h

@[simp] theorem program_read_write_same (p : Program) (a : Nat) (v : InstrWord) :
    Program.read (Program.write p a v) a = v := cellRead_write_same _ p a v

theorem program_read_write_other (p : Program) {a b : Nat} (v : InstrWord) (h : b ≠ a) :
    Program.read (Program.write p a v) b = Program.read p b := cellRead_write_other _ p v h

/-- The write of a general-purpose byte keeps the form of data memory. -/
theorem memory_write_wf (m : Memory) (a : Nat) (v : Byte) (h : Memory.wf m = true)
    (ha : 0x0C ≤ a ∧ a ≤ 0x4F) : Memory.wf (Memory.write m a v) = true := by
  simp only [Memory.wf, Bool.and_eq_true, List.all_eq_true, decide_eq_true_eq] at h ⊢
  exact ⟨cellWrite_wf _ m a v h.1,
    cellWrite_forall _ m a v (fun c => 0x0C ≤ c.1 ∧ c.1 ≤ 0x4F) h.2 (fun _ => ha)⟩

/-- The write of an implemented program word keeps the form of program memory. -/
theorem program_write_wf (p : Program) (a : Nat) (v : InstrWord) (h : Program.wf p = true)
    (ha : a < Config.progWords) : Program.wf (Program.write p a v) = true := by
  simp only [Program.wf, Bool.and_eq_true, List.all_eq_true, decide_eq_true_eq] at h ⊢
  exact ⟨cellWrite_wf _ p a v h.1,
    cellWrite_forall _ p a v (fun c => c.1 < Config.progWords) h.2 (fun _ => ha)⟩

end Sys2Proof.Machine
end

