-- ==== Sys2Proof/Laws/Flags.lean ====
section
/-! SUPPORT. The bits of STATUS after each way of writing it. -/

namespace Sys2Proof.Machine

/-- The bits of a concatenation whose width is written as a numeral. -/
theorem getLsbD_concat {n m : Nat} (x : BitVec n) (y : BitVec m) (i : Nat) :
    (x ++ y).getLsbD i = if i < m then y.getLsbD i else x.getLsbD (i - m) := by
  rw [BitVec.getLsbD_append]

variable (u : FlagUpdate) (v st : Byte) (i : Nat)

theorem bits_getLsbD : (u.bits st).getLsbD i =
    if i < 1 then (BitVec.ofBool (u.c.getD (st.getLsbD 0))).getLsbD i
    else (BitVec.ofBool (u.z.getD (st.getLsbD 2)) ++
      BitVec.ofBool (u.dc.getD (st.getLsbD 1))).getLsbD (i - 1) :=
  getLsbD_concat _ _ i

theorem bits_z : (u.bits st).getLsbD 2 = u.z.getD (st.getLsbD 2) := by
  rw [bits_getLsbD, getLsbD_concat]; simp

@[simp] theorem bits_z_elem : (u.bits st)[2] = u.z.getD st[2] := by
  simpa using bits_z u st

theorem bits_dc : (u.bits st).getLsbD 1 = u.dc.getD (st.getLsbD 1) := by
  rw [bits_getLsbD, getLsbD_concat]; simp

@[simp] theorem bits_dc_elem : (u.bits st)[1] = u.dc.getD st[1] := by
  simpa using bits_dc u st

theorem bits_c : (u.bits st).getLsbD 0 = u.c.getD (st.getLsbD 0) := by
  rw [bits_getLsbD]; simp

@[simp] theorem bits_c_elem : (u.bits st)[0] = u.c.getD st[0] := by
  simpa using bits_c u st

/-! ## Flags as a side effect -/

theorem apply_getLsbD : (u.apply st).getLsbD i =
    if i < 3 then (u.bits st).getLsbD i else (st.extractLsb' 3 5).getLsbD (i - 3) :=
  getLsbD_concat _ _ i

theorem apply_high_bit (h : 3 ≤ i) : (u.apply st).getLsbD i = st.getLsbD i := by
  have e : 3 + (i - 3) = i := by omega
  rw [apply_getLsbD, if_neg (by omega), BitVec.getLsbD_extractLsb', e]
  by_cases h8 : i < 8
  · simp [show i - 3 < 5 by omega]
  · simp [BitVec.getLsbD_of_ge st i (by omega)]

theorem apply_z : (u.apply st).getLsbD 2 = u.z.getD (st.getLsbD 2) := by
  rw [apply_getLsbD, if_pos (by omega), bits_z]

@[simp] theorem apply_z_elem : (u.apply st)[2] = u.z.getD st[2] := by
  simpa using apply_z u st

theorem apply_dc : (u.apply st).getLsbD 1 = u.dc.getD (st.getLsbD 1) := by
  rw [apply_getLsbD, if_pos (by omega), bits_dc]

@[simp] theorem apply_dc_elem : (u.apply st)[1] = u.dc.getD st[1] := by
  simpa using apply_dc u st

theorem apply_c : (u.apply st).getLsbD 0 = u.c.getD (st.getLsbD 0) := by
  rw [apply_getLsbD, if_pos (by omega), bits_c]

@[simp] theorem apply_c_elem : (u.apply st)[0] = u.c.getD st[0] := by
  simpa using apply_c u st

theorem extract_congr {a b : Byte} (lo n : Nat)
    (h : ∀ i, lo ≤ i → i < lo + n → a.getLsbD i = b.getLsbD i) :
    a.extractLsb' lo n = b.extractLsb' lo n := by
  apply BitVec.eq_of_getLsbD_eq
  intro i hi
  rw [BitVec.getLsbD_extractLsb', BitVec.getLsbD_extractLsb', h (lo + i) (by omega) (by omega)]

@[simp] theorem apply_high : (u.apply st).extractLsb' 3 5 = st.extractLsb' 3 5 :=
  extract_congr 3 5 fun i h _ => apply_high_bit u st i h

@[simp] theorem apply_bank : (u.apply st).extractLsb' 5 3 = st.extractLsb' 5 3 :=
  extract_congr 5 3 fun i h _ => apply_high_bit u st i (by omega)

@[simp] theorem apply_timePower : (u.apply st).extractLsb' 3 2 = st.extractLsb' 3 2 :=
  extract_congr 3 2 fun i h _ => apply_high_bit u st i h

/-- Two bytes are equal when their eight bits are. -/
theorem byte_ext {a b : Byte} (h0 : a.getLsbD 0 = b.getLsbD 0) (h1 : a.getLsbD 1 = b.getLsbD 1)
    (h2 : a.getLsbD 2 = b.getLsbD 2) (h : ∀ i, 3 ≤ i → i < 8 → a.getLsbD i = b.getLsbD i) :
    a = b := by
  apply BitVec.eq_of_getLsbD_eq
  intro i hi
  by_cases h3 : 3 ≤ i
  · exact h i h3 hi
  · interval_cases i <;> assumption

/-- An update that affects nothing changes nothing. -/
@[simp] theorem apply_keep : FlagUpdate.keep.apply st = st :=
  byte_ext (by rw [apply_c]; rfl) (by rw [apply_dc]; rfl) (by rw [apply_z]; rfl)
    fun i h _ => apply_high_bit _ st i h

/-! ## STATUS as a destination -/

/-- The bits of a STATUS byte joined of the bank bits, TO and PD, and the flags. -/
theorem join_getLsbD (b : BitVec 3) (t : BitVec 2) (f : BitVec 3) :
    BitVec.getLsbD (w := 8) (b ++ t ++ f) i =
      if i < 3 then f.getLsbD i else if i < 5 then t.getLsbD (i - 3) else b.getLsbD (i - 5) := by
  refine (getLsbD_concat (b ++ t) f i).trans ?_
  rw [getLsbD_concat]
  split
  · rfl
  · by_cases h5 : i < 5
    · rw [if_pos h5, if_pos (by omega)]
    · rw [if_neg h5, if_neg (by omega), Nat.sub_sub]

/-- The flags STATUS gets as a destination (10_state.md R17, R18). -/
def destinationFlags : BitVec 3 := if u.isEmpty then v.extractLsb' 0 3 else u.bits st

theorem statusWrite_eq : statusWrite v u st =
    v.extractLsb' 5 3 ++ st.extractLsb' 3 2 ++ destinationFlags u v st := by
  unfold statusWrite statusWritePlain statusWriteFlags destinationFlags
  split <;> rfl

@[simp] theorem statusWrite_bank : (statusWrite v u st).extractLsb' 5 3 = v.extractLsb' 5 3 :=
  extract_congr 5 3 fun i h h' => by
    rw [statusWrite_eq, join_getLsbD, if_neg (by omega), if_neg (by omega),
      BitVec.getLsbD_extractLsb', show 5 + (i - 5) = i by omega]
    simp [show i - 5 < 3 by omega]

@[simp] theorem statusWrite_timePower :
    (statusWrite v u st).extractLsb' 3 2 = st.extractLsb' 3 2 :=
  extract_congr 3 2 fun i h h' => by
    rw [statusWrite_eq, join_getLsbD, if_neg (by omega), if_pos (by omega),
      BitVec.getLsbD_extractLsb', show 3 + (i - 3) = i by omega]
    simp [show i - 3 < 2 by omega]

theorem statusWrite_flag (h : i < 3) :
    (statusWrite v u st).getLsbD i = if u.isEmpty then v.getLsbD i else (u.bits st).getLsbD i := by
  rw [statusWrite_eq, join_getLsbD, if_pos h, destinationFlags]
  split
  · rw [BitVec.getLsbD_extractLsb']; simp [h]
  · rfl

theorem statusWrite_z : (statusWrite v u st).getLsbD 2 =
    if u.isEmpty then v.getLsbD 2 else u.z.getD (st.getLsbD 2) := by
  rw [statusWrite_flag u v st 2 (by omega), bits_z]

theorem statusWrite_dc : (statusWrite v u st).getLsbD 1 =
    if u.isEmpty then v.getLsbD 1 else u.dc.getD (st.getLsbD 1) := by
  rw [statusWrite_flag u v st 1 (by omega), bits_dc]

theorem statusWrite_c : (statusWrite v u st).getLsbD 0 =
    if u.isEmpty then v.getLsbD 0 else u.c.getD (st.getLsbD 0) := by
  rw [statusWrite_flag u v st 0 (by omega), bits_c]

/-! ## TO and PD set by the hardware -/

variable (timeOut powerDown : Bool)

theorem statusTimePower_eq : statusTimePower timeOut powerDown st =
    st.extractLsb' 5 3 ++ (BitVec.ofBool timeOut ++ BitVec.ofBool powerDown) ++
      st.extractLsb' 0 3 := by
  unfold statusTimePower
  apply BitVec.eq_of_getLsbD_eq
  intro i hi
  rw [join_getLsbD]
  refine (getLsbD_concat _ _ i).trans ?_
  rw [getLsbD_concat, getLsbD_concat, getLsbD_concat]
  interval_cases i <;> rfl

@[simp] theorem statusTimePower_bank :
    (statusTimePower timeOut powerDown st).extractLsb' 5 3 = st.extractLsb' 5 3 :=
  extract_congr 5 3 fun i h h' => by
    rw [statusTimePower_eq, join_getLsbD, if_neg (by omega), if_neg (by omega),
      BitVec.getLsbD_extractLsb', show 5 + (i - 5) = i by omega]
    simp [show i - 5 < 3 by omega]

@[simp] theorem statusTimePower_flags :
    (statusTimePower timeOut powerDown st).extractLsb' 0 3 = st.extractLsb' 0 3 :=
  extract_congr 0 3 fun i _ h' => by
    rw [statusTimePower_eq, join_getLsbD, if_pos (by omega), BitVec.getLsbD_extractLsb']
    simp [show i < 3 by omega]

theorem statusTimePower_to :
    (statusTimePower timeOut powerDown st).getLsbD 4 = timeOut := by
  rw [statusTimePower_eq, join_getLsbD]; cases timeOut <;> cases powerDown <;> rfl

@[simp] theorem statusTimePower_to_elem : (statusTimePower timeOut powerDown st)[4] = timeOut := by
  simpa using statusTimePower_to st timeOut powerDown

theorem statusTimePower_pd :
    (statusTimePower timeOut powerDown st).getLsbD 3 = powerDown := by
  rw [statusTimePower_eq, join_getLsbD]; cases timeOut <;> cases powerDown <;> rfl

@[simp] theorem statusTimePower_pd_elem : (statusTimePower timeOut powerDown st)[3] = powerDown := by
  simpa using statusTimePower_pd st timeOut powerDown

@[simp] theorem statusTimePower_bits :
    (statusTimePower timeOut powerDown st).extractLsb' 3 2 =
      BitVec.ofBool timeOut ++ BitVec.ofBool powerDown := by
  apply BitVec.eq_of_getLsbD_eq
  intro i hi
  rw [BitVec.getLsbD_extractLsb', statusTimePower_eq, join_getLsbD]
  interval_cases i <;> cases timeOut <;> cases powerDown <;> rfl

end Sys2Proof.Machine
end

