-- ==== Sys2Proof/Laws/State.lean ====
section
/-! SUPPORT. The fields of a state after each update: one lemma per field per update, all by rfl. -/

namespace Sys2Proof.Machine

variable (s : State)

/-! ## setW -/

@[simp] theorem setW_w (v : Byte) : (s.setW v).w = v := rfl
@[simp] theorem setW_pc (v : Byte) : (s.setW v).pc = s.pc := rfl
@[simp] theorem setW_status (v : Byte) : (s.setW v).status = s.status := rfl
@[simp] theorem setW_stack (v : Byte) : (s.setW v).stack = s.stack := rfl
@[simp] theorem setW_pclath (v : Byte) : (s.setW v).pclath = s.pclath := rfl
@[simp] theorem setW_fsr (v : Byte) : (s.setW v).fsr = s.fsr := rfl
@[simp] theorem setW_intcon (v : Byte) : (s.setW v).intcon = s.intcon := rfl
@[simp] theorem setW_optionReg (v : Byte) : (s.setW v).optionReg = s.optionReg := rfl
@[simp] theorem setW_tmr0 (v : Byte) : (s.setW v).tmr0 = s.tmr0 := rfl
@[simp] theorem setW_portA (v : Byte) : (s.setW v).portA = s.portA := rfl
@[simp] theorem setW_portB (v : Byte) : (s.setW v).portB = s.portB := rfl
@[simp] theorem setW_pinsA (v : Byte) : (s.setW v).pinsA = s.pinsA := rfl
@[simp] theorem setW_pinsB (v : Byte) : (s.setW v).pinsB = s.pinsB := rfl
@[simp] theorem setW_trisA (v : Byte) : (s.setW v).trisA = s.trisA := rfl
@[simp] theorem setW_trisB (v : Byte) : (s.setW v).trisB = s.trisB := rfl
@[simp] theorem setW_eedata (v : Byte) : (s.setW v).eedata = s.eedata := rfl
@[simp] theorem setW_eeadr (v : Byte) : (s.setW v).eeadr = s.eeadr := rfl
@[simp] theorem setW_eecon1 (v : Byte) : (s.setW v).eecon1 = s.eecon1 := rfl
@[simp] theorem setW_wdt (v : Byte) : (s.setW v).wdt = s.wdt := rfl
@[simp] theorem setW_prescaler (v : Byte) : (s.setW v).prescaler = s.prescaler := rfl
@[simp] theorem setW_sleeping (v : Byte) : (s.setW v).sleeping = s.sleeping := rfl
@[simp] theorem setW_resuming (v : Byte) : (s.setW v).resuming = s.resuming := rfl
@[simp] theorem setW_gpr (v : Byte) : (s.setW v).gpr = s.gpr := rfl
@[simp] theorem setW_prog (v : Byte) : (s.setW v).prog = s.prog := rfl
@[simp] theorem setW_configWord (v : Byte) : (s.setW v).configWord = s.configWord := rfl
@[simp] theorem setW_outputs (v : Byte) : (s.setW v).outputs = s.outputs := rfl
@[simp] theorem setW_env (v : Byte) : (s.setW v).env = s.env := rfl
@[simp] theorem setW_draws (v : Byte) : (s.setW v).draws = s.draws := rfl

/-! ## setPc -/

@[simp] theorem setPc_w (v : ProgAddr) : (s.setPc v).w = s.w := rfl
@[simp] theorem setPc_pc (v : ProgAddr) : (s.setPc v).pc = v := rfl
@[simp] theorem setPc_status (v : ProgAddr) : (s.setPc v).status = s.status := rfl
@[simp] theorem setPc_stack (v : ProgAddr) : (s.setPc v).stack = s.stack := rfl
@[simp] theorem setPc_pclath (v : ProgAddr) : (s.setPc v).pclath = s.pclath := rfl
@[simp] theorem setPc_fsr (v : ProgAddr) : (s.setPc v).fsr = s.fsr := rfl
@[simp] theorem setPc_intcon (v : ProgAddr) : (s.setPc v).intcon = s.intcon := rfl
@[simp] theorem setPc_optionReg (v : ProgAddr) : (s.setPc v).optionReg = s.optionReg := rfl
@[simp] theorem setPc_tmr0 (v : ProgAddr) : (s.setPc v).tmr0 = s.tmr0 := rfl
@[simp] theorem setPc_portA (v : ProgAddr) : (s.setPc v).portA = s.portA := rfl
@[simp] theorem setPc_portB (v : ProgAddr) : (s.setPc v).portB = s.portB := rfl
@[simp] theorem setPc_pinsA (v : ProgAddr) : (s.setPc v).pinsA = s.pinsA := rfl
@[simp] theorem setPc_pinsB (v : ProgAddr) : (s.setPc v).pinsB = s.pinsB := rfl
@[simp] theorem setPc_trisA (v : ProgAddr) : (s.setPc v).trisA = s.trisA := rfl
@[simp] theorem setPc_trisB (v : ProgAddr) : (s.setPc v).trisB = s.trisB := rfl
@[simp] theorem setPc_eedata (v : ProgAddr) : (s.setPc v).eedata = s.eedata := rfl
@[simp] theorem setPc_eeadr (v : ProgAddr) : (s.setPc v).eeadr = s.eeadr := rfl
@[simp] theorem setPc_eecon1 (v : ProgAddr) : (s.setPc v).eecon1 = s.eecon1 := rfl
@[simp] theorem setPc_wdt (v : ProgAddr) : (s.setPc v).wdt = s.wdt := rfl
@[simp] theorem setPc_prescaler (v : ProgAddr) : (s.setPc v).prescaler = s.prescaler := rfl
@[simp] theorem setPc_sleeping (v : ProgAddr) : (s.setPc v).sleeping = s.sleeping := rfl
@[simp] theorem setPc_resuming (v : ProgAddr) : (s.setPc v).resuming = s.resuming := rfl
@[simp] theorem setPc_gpr (v : ProgAddr) : (s.setPc v).gpr = s.gpr := rfl
@[simp] theorem setPc_prog (v : ProgAddr) : (s.setPc v).prog = s.prog := rfl
@[simp] theorem setPc_configWord (v : ProgAddr) : (s.setPc v).configWord = s.configWord := rfl
@[simp] theorem setPc_outputs (v : ProgAddr) : (s.setPc v).outputs = s.outputs := rfl
@[simp] theorem setPc_env (v : ProgAddr) : (s.setPc v).env = s.env := rfl
@[simp] theorem setPc_draws (v : ProgAddr) : (s.setPc v).draws = s.draws := rfl

/-! ## setStatus -/

@[simp] theorem setStatus_w (v : Byte) : (s.setStatus v).w = s.w := rfl
@[simp] theorem setStatus_pc (v : Byte) : (s.setStatus v).pc = s.pc := rfl
@[simp] theorem setStatus_status (v : Byte) : (s.setStatus v).status = v := rfl
@[simp] theorem setStatus_stack (v : Byte) : (s.setStatus v).stack = s.stack := rfl
@[simp] theorem setStatus_pclath (v : Byte) : (s.setStatus v).pclath = s.pclath := rfl
@[simp] theorem setStatus_fsr (v : Byte) : (s.setStatus v).fsr = s.fsr := rfl
@[simp] theorem setStatus_intcon (v : Byte) : (s.setStatus v).intcon = s.intcon := rfl
@[simp] theorem setStatus_optionReg (v : Byte) : (s.setStatus v).optionReg = s.optionReg := rfl
@[simp] theorem setStatus_tmr0 (v : Byte) : (s.setStatus v).tmr0 = s.tmr0 := rfl
@[simp] theorem setStatus_portA (v : Byte) : (s.setStatus v).portA = s.portA := rfl
@[simp] theorem setStatus_portB (v : Byte) : (s.setStatus v).portB = s.portB := rfl
@[simp] theorem setStatus_pinsA (v : Byte) : (s.setStatus v).pinsA = s.pinsA := rfl
@[simp] theorem setStatus_pinsB (v : Byte) : (s.setStatus v).pinsB = s.pinsB := rfl
@[simp] theorem setStatus_trisA (v : Byte) : (s.setStatus v).trisA = s.trisA := rfl
@[simp] theorem setStatus_trisB (v : Byte) : (s.setStatus v).trisB = s.trisB := rfl
@[simp] theorem setStatus_eedata (v : Byte) : (s.setStatus v).eedata = s.eedata := rfl
@[simp] theorem setStatus_eeadr (v : Byte) : (s.setStatus v).eeadr = s.eeadr := rfl
@[simp] theorem setStatus_eecon1 (v : Byte) : (s.setStatus v).eecon1 = s.eecon1 := rfl
@[simp] theorem setStatus_wdt (v : Byte) : (s.setStatus v).wdt = s.wdt := rfl
@[simp] theorem setStatus_prescaler (v : Byte) : (s.setStatus v).prescaler = s.prescaler := rfl
@[simp] theorem setStatus_sleeping (v : Byte) : (s.setStatus v).sleeping = s.sleeping := rfl
@[simp] theorem setStatus_resuming (v : Byte) : (s.setStatus v).resuming = s.resuming := rfl
@[simp] theorem setStatus_gpr (v : Byte) : (s.setStatus v).gpr = s.gpr := rfl
@[simp] theorem setStatus_prog (v : Byte) : (s.setStatus v).prog = s.prog := rfl
@[simp] theorem setStatus_configWord (v : Byte) : (s.setStatus v).configWord = s.configWord := rfl
@[simp] theorem setStatus_outputs (v : Byte) : (s.setStatus v).outputs = s.outputs := rfl
@[simp] theorem setStatus_env (v : Byte) : (s.setStatus v).env = s.env := rfl
@[simp] theorem setStatus_draws (v : Byte) : (s.setStatus v).draws = s.draws := rfl

/-! ## setStack -/

@[simp] theorem setStack_w (v : Stack) : (s.setStack v).w = s.w := rfl
@[simp] theorem setStack_pc (v : Stack) : (s.setStack v).pc = s.pc := rfl
@[simp] theorem setStack_status (v : Stack) : (s.setStack v).status = s.status := rfl
@[simp] theorem setStack_stack (v : Stack) : (s.setStack v).stack = v := rfl
@[simp] theorem setStack_pclath (v : Stack) : (s.setStack v).pclath = s.pclath := rfl
@[simp] theorem setStack_fsr (v : Stack) : (s.setStack v).fsr = s.fsr := rfl
@[simp] theorem setStack_intcon (v : Stack) : (s.setStack v).intcon = s.intcon := rfl
@[simp] theorem setStack_optionReg (v : Stack) : (s.setStack v).optionReg = s.optionReg := rfl
@[simp] theorem setStack_tmr0 (v : Stack) : (s.setStack v).tmr0 = s.tmr0 := rfl
@[simp] theorem setStack_portA (v : Stack) : (s.setStack v).portA = s.portA := rfl
@[simp] theorem setStack_portB (v : Stack) : (s.setStack v).portB = s.portB := rfl
@[simp] theorem setStack_pinsA (v : Stack) : (s.setStack v).pinsA = s.pinsA := rfl
@[simp] theorem setStack_pinsB (v : Stack) : (s.setStack v).pinsB = s.pinsB := rfl
@[simp] theorem setStack_trisA (v : Stack) : (s.setStack v).trisA = s.trisA := rfl
@[simp] theorem setStack_trisB (v : Stack) : (s.setStack v).trisB = s.trisB := rfl
@[simp] theorem setStack_eedata (v : Stack) : (s.setStack v).eedata = s.eedata := rfl
@[simp] theorem setStack_eeadr (v : Stack) : (s.setStack v).eeadr = s.eeadr := rfl
@[simp] theorem setStack_eecon1 (v : Stack) : (s.setStack v).eecon1 = s.eecon1 := rfl
@[simp] theorem setStack_wdt (v : Stack) : (s.setStack v).wdt = s.wdt := rfl
@[simp] theorem setStack_prescaler (v : Stack) : (s.setStack v).prescaler = s.prescaler := rfl
@[simp] theorem setStack_sleeping (v : Stack) : (s.setStack v).sleeping = s.sleeping := rfl
@[simp] theorem setStack_resuming (v : Stack) : (s.setStack v).resuming = s.resuming := rfl
@[simp] theorem setStack_gpr (v : Stack) : (s.setStack v).gpr = s.gpr := rfl
@[simp] theorem setStack_prog (v : Stack) : (s.setStack v).prog = s.prog := rfl
@[simp] theorem setStack_configWord (v : Stack) : (s.setStack v).configWord = s.configWord := rfl
@[simp] theorem setStack_outputs (v : Stack) : (s.setStack v).outputs = s.outputs := rfl
@[simp] theorem setStack_env (v : Stack) : (s.setStack v).env = s.env := rfl
@[simp] theorem setStack_draws (v : Stack) : (s.setStack v).draws = s.draws := rfl

/-! ## setIntcon -/

@[simp] theorem setIntcon_w (v : Byte) : (s.setIntcon v).w = s.w := rfl
@[simp] theorem setIntcon_pc (v : Byte) : (s.setIntcon v).pc = s.pc := rfl
@[simp] theorem setIntcon_status (v : Byte) : (s.setIntcon v).status = s.status := rfl
@[simp] theorem setIntcon_stack (v : Byte) : (s.setIntcon v).stack = s.stack := rfl
@[simp] theorem setIntcon_pclath (v : Byte) : (s.setIntcon v).pclath = s.pclath := rfl
@[simp] theorem setIntcon_fsr (v : Byte) : (s.setIntcon v).fsr = s.fsr := rfl
@[simp] theorem setIntcon_intcon (v : Byte) : (s.setIntcon v).intcon = v := rfl
@[simp] theorem setIntcon_optionReg (v : Byte) : (s.setIntcon v).optionReg = s.optionReg := rfl
@[simp] theorem setIntcon_tmr0 (v : Byte) : (s.setIntcon v).tmr0 = s.tmr0 := rfl
@[simp] theorem setIntcon_portA (v : Byte) : (s.setIntcon v).portA = s.portA := rfl
@[simp] theorem setIntcon_portB (v : Byte) : (s.setIntcon v).portB = s.portB := rfl
@[simp] theorem setIntcon_pinsA (v : Byte) : (s.setIntcon v).pinsA = s.pinsA := rfl
@[simp] theorem setIntcon_pinsB (v : Byte) : (s.setIntcon v).pinsB = s.pinsB := rfl
@[simp] theorem setIntcon_trisA (v : Byte) : (s.setIntcon v).trisA = s.trisA := rfl
@[simp] theorem setIntcon_trisB (v : Byte) : (s.setIntcon v).trisB = s.trisB := rfl
@[simp] theorem setIntcon_eedata (v : Byte) : (s.setIntcon v).eedata = s.eedata := rfl
@[simp] theorem setIntcon_eeadr (v : Byte) : (s.setIntcon v).eeadr = s.eeadr := rfl
@[simp] theorem setIntcon_eecon1 (v : Byte) : (s.setIntcon v).eecon1 = s.eecon1 := rfl
@[simp] theorem setIntcon_wdt (v : Byte) : (s.setIntcon v).wdt = s.wdt := rfl
@[simp] theorem setIntcon_prescaler (v : Byte) : (s.setIntcon v).prescaler = s.prescaler := rfl
@[simp] theorem setIntcon_sleeping (v : Byte) : (s.setIntcon v).sleeping = s.sleeping := rfl
@[simp] theorem setIntcon_resuming (v : Byte) : (s.setIntcon v).resuming = s.resuming := rfl
@[simp] theorem setIntcon_gpr (v : Byte) : (s.setIntcon v).gpr = s.gpr := rfl
@[simp] theorem setIntcon_prog (v : Byte) : (s.setIntcon v).prog = s.prog := rfl
@[simp] theorem setIntcon_configWord (v : Byte) : (s.setIntcon v).configWord = s.configWord := rfl
@[simp] theorem setIntcon_outputs (v : Byte) : (s.setIntcon v).outputs = s.outputs := rfl
@[simp] theorem setIntcon_env (v : Byte) : (s.setIntcon v).env = s.env := rfl
@[simp] theorem setIntcon_draws (v : Byte) : (s.setIntcon v).draws = s.draws := rfl

/-! ## setGpr -/

@[simp] theorem setGpr_w (v : Memory) : (s.setGpr v).w = s.w := rfl
@[simp] theorem setGpr_pc (v : Memory) : (s.setGpr v).pc = s.pc := rfl
@[simp] theorem setGpr_status (v : Memory) : (s.setGpr v).status = s.status := rfl
@[simp] theorem setGpr_stack (v : Memory) : (s.setGpr v).stack = s.stack := rfl
@[simp] theorem setGpr_pclath (v : Memory) : (s.setGpr v).pclath = s.pclath := rfl
@[simp] theorem setGpr_fsr (v : Memory) : (s.setGpr v).fsr = s.fsr := rfl
@[simp] theorem setGpr_intcon (v : Memory) : (s.setGpr v).intcon = s.intcon := rfl
@[simp] theorem setGpr_optionReg (v : Memory) : (s.setGpr v).optionReg = s.optionReg := rfl
@[simp] theorem setGpr_tmr0 (v : Memory) : (s.setGpr v).tmr0 = s.tmr0 := rfl
@[simp] theorem setGpr_portA (v : Memory) : (s.setGpr v).portA = s.portA := rfl
@[simp] theorem setGpr_portB (v : Memory) : (s.setGpr v).portB = s.portB := rfl
@[simp] theorem setGpr_pinsA (v : Memory) : (s.setGpr v).pinsA = s.pinsA := rfl
@[simp] theorem setGpr_pinsB (v : Memory) : (s.setGpr v).pinsB = s.pinsB := rfl
@[simp] theorem setGpr_trisA (v : Memory) : (s.setGpr v).trisA = s.trisA := rfl
@[simp] theorem setGpr_trisB (v : Memory) : (s.setGpr v).trisB = s.trisB := rfl
@[simp] theorem setGpr_eedata (v : Memory) : (s.setGpr v).eedata = s.eedata := rfl
@[simp] theorem setGpr_eeadr (v : Memory) : (s.setGpr v).eeadr = s.eeadr := rfl
@[simp] theorem setGpr_eecon1 (v : Memory) : (s.setGpr v).eecon1 = s.eecon1 := rfl
@[simp] theorem setGpr_wdt (v : Memory) : (s.setGpr v).wdt = s.wdt := rfl
@[simp] theorem setGpr_prescaler (v : Memory) : (s.setGpr v).prescaler = s.prescaler := rfl
@[simp] theorem setGpr_sleeping (v : Memory) : (s.setGpr v).sleeping = s.sleeping := rfl
@[simp] theorem setGpr_resuming (v : Memory) : (s.setGpr v).resuming = s.resuming := rfl
@[simp] theorem setGpr_gpr (v : Memory) : (s.setGpr v).gpr = v := rfl
@[simp] theorem setGpr_prog (v : Memory) : (s.setGpr v).prog = s.prog := rfl
@[simp] theorem setGpr_configWord (v : Memory) : (s.setGpr v).configWord = s.configWord := rfl
@[simp] theorem setGpr_outputs (v : Memory) : (s.setGpr v).outputs = s.outputs := rfl
@[simp] theorem setGpr_env (v : Memory) : (s.setGpr v).env = s.env := rfl
@[simp] theorem setGpr_draws (v : Memory) : (s.setGpr v).draws = s.draws := rfl

/-! ## setSleeping -/

@[simp] theorem setSleeping_w (v : Bool) : (s.setSleeping v).w = s.w := rfl
@[simp] theorem setSleeping_pc (v : Bool) : (s.setSleeping v).pc = s.pc := rfl
@[simp] theorem setSleeping_status (v : Bool) : (s.setSleeping v).status = s.status := rfl
@[simp] theorem setSleeping_stack (v : Bool) : (s.setSleeping v).stack = s.stack := rfl
@[simp] theorem setSleeping_pclath (v : Bool) : (s.setSleeping v).pclath = s.pclath := rfl
@[simp] theorem setSleeping_fsr (v : Bool) : (s.setSleeping v).fsr = s.fsr := rfl
@[simp] theorem setSleeping_intcon (v : Bool) : (s.setSleeping v).intcon = s.intcon := rfl
@[simp] theorem setSleeping_optionReg (v : Bool) : (s.setSleeping v).optionReg = s.optionReg := rfl
@[simp] theorem setSleeping_tmr0 (v : Bool) : (s.setSleeping v).tmr0 = s.tmr0 := rfl
@[simp] theorem setSleeping_portA (v : Bool) : (s.setSleeping v).portA = s.portA := rfl
@[simp] theorem setSleeping_portB (v : Bool) : (s.setSleeping v).portB = s.portB := rfl
@[simp] theorem setSleeping_pinsA (v : Bool) : (s.setSleeping v).pinsA = s.pinsA := rfl
@[simp] theorem setSleeping_pinsB (v : Bool) : (s.setSleeping v).pinsB = s.pinsB := rfl
@[simp] theorem setSleeping_trisA (v : Bool) : (s.setSleeping v).trisA = s.trisA := rfl
@[simp] theorem setSleeping_trisB (v : Bool) : (s.setSleeping v).trisB = s.trisB := rfl
@[simp] theorem setSleeping_eedata (v : Bool) : (s.setSleeping v).eedata = s.eedata := rfl
@[simp] theorem setSleeping_eeadr (v : Bool) : (s.setSleeping v).eeadr = s.eeadr := rfl
@[simp] theorem setSleeping_eecon1 (v : Bool) : (s.setSleeping v).eecon1 = s.eecon1 := rfl
@[simp] theorem setSleeping_wdt (v : Bool) : (s.setSleeping v).wdt = s.wdt := rfl
@[simp] theorem setSleeping_prescaler (v : Bool) : (s.setSleeping v).prescaler = s.prescaler := rfl
@[simp] theorem setSleeping_sleeping (v : Bool) : (s.setSleeping v).sleeping = v := rfl
@[simp] theorem setSleeping_resuming (v : Bool) : (s.setSleeping v).resuming = s.resuming := rfl
@[simp] theorem setSleeping_gpr (v : Bool) : (s.setSleeping v).gpr = s.gpr := rfl
@[simp] theorem setSleeping_prog (v : Bool) : (s.setSleeping v).prog = s.prog := rfl
@[simp] theorem setSleeping_configWord (v : Bool) : (s.setSleeping v).configWord = s.configWord := rfl
@[simp] theorem setSleeping_outputs (v : Bool) : (s.setSleeping v).outputs = s.outputs := rfl
@[simp] theorem setSleeping_env (v : Bool) : (s.setSleeping v).env = s.env := rfl
@[simp] theorem setSleeping_draws (v : Bool) : (s.setSleeping v).draws = s.draws := rfl

/-! ## setResuming -/

@[simp] theorem setResuming_w (v : Bool) : (s.setResuming v).w = s.w := rfl
@[simp] theorem setResuming_pc (v : Bool) : (s.setResuming v).pc = s.pc := rfl
@[simp] theorem setResuming_status (v : Bool) : (s.setResuming v).status = s.status := rfl
@[simp] theorem setResuming_stack (v : Bool) : (s.setResuming v).stack = s.stack := rfl
@[simp] theorem setResuming_pclath (v : Bool) : (s.setResuming v).pclath = s.pclath := rfl
@[simp] theorem setResuming_fsr (v : Bool) : (s.setResuming v).fsr = s.fsr := rfl
@[simp] theorem setResuming_intcon (v : Bool) : (s.setResuming v).intcon = s.intcon := rfl
@[simp] theorem setResuming_optionReg (v : Bool) : (s.setResuming v).optionReg = s.optionReg := rfl
@[simp] theorem setResuming_tmr0 (v : Bool) : (s.setResuming v).tmr0 = s.tmr0 := rfl
@[simp] theorem setResuming_portA (v : Bool) : (s.setResuming v).portA = s.portA := rfl
@[simp] theorem setResuming_portB (v : Bool) : (s.setResuming v).portB = s.portB := rfl
@[simp] theorem setResuming_pinsA (v : Bool) : (s.setResuming v).pinsA = s.pinsA := rfl
@[simp] theorem setResuming_pinsB (v : Bool) : (s.setResuming v).pinsB = s.pinsB := rfl
@[simp] theorem setResuming_trisA (v : Bool) : (s.setResuming v).trisA = s.trisA := rfl
@[simp] theorem setResuming_trisB (v : Bool) : (s.setResuming v).trisB = s.trisB := rfl
@[simp] theorem setResuming_eedata (v : Bool) : (s.setResuming v).eedata = s.eedata := rfl
@[simp] theorem setResuming_eeadr (v : Bool) : (s.setResuming v).eeadr = s.eeadr := rfl
@[simp] theorem setResuming_eecon1 (v : Bool) : (s.setResuming v).eecon1 = s.eecon1 := rfl
@[simp] theorem setResuming_wdt (v : Bool) : (s.setResuming v).wdt = s.wdt := rfl
@[simp] theorem setResuming_prescaler (v : Bool) : (s.setResuming v).prescaler = s.prescaler := rfl
@[simp] theorem setResuming_sleeping (v : Bool) : (s.setResuming v).sleeping = s.sleeping := rfl
@[simp] theorem setResuming_resuming (v : Bool) : (s.setResuming v).resuming = v := rfl
@[simp] theorem setResuming_gpr (v : Bool) : (s.setResuming v).gpr = s.gpr := rfl
@[simp] theorem setResuming_prog (v : Bool) : (s.setResuming v).prog = s.prog := rfl
@[simp] theorem setResuming_configWord (v : Bool) : (s.setResuming v).configWord = s.configWord := rfl
@[simp] theorem setResuming_outputs (v : Bool) : (s.setResuming v).outputs = s.outputs := rfl
@[simp] theorem setResuming_env (v : Bool) : (s.setResuming v).env = s.env := rfl
@[simp] theorem setResuming_draws (v : Bool) : (s.setResuming v).draws = s.draws := rfl

/-! ## setEnv -/

@[simp] theorem setEnv_w (v : List EnvInput) : (s.setEnv v).w = s.w := rfl
@[simp] theorem setEnv_pc (v : List EnvInput) : (s.setEnv v).pc = s.pc := rfl
@[simp] theorem setEnv_status (v : List EnvInput) : (s.setEnv v).status = s.status := rfl
@[simp] theorem setEnv_stack (v : List EnvInput) : (s.setEnv v).stack = s.stack := rfl
@[simp] theorem setEnv_pclath (v : List EnvInput) : (s.setEnv v).pclath = s.pclath := rfl
@[simp] theorem setEnv_fsr (v : List EnvInput) : (s.setEnv v).fsr = s.fsr := rfl
@[simp] theorem setEnv_intcon (v : List EnvInput) : (s.setEnv v).intcon = s.intcon := rfl
@[simp] theorem setEnv_optionReg (v : List EnvInput) : (s.setEnv v).optionReg = s.optionReg := rfl
@[simp] theorem setEnv_tmr0 (v : List EnvInput) : (s.setEnv v).tmr0 = s.tmr0 := rfl
@[simp] theorem setEnv_portA (v : List EnvInput) : (s.setEnv v).portA = s.portA := rfl
@[simp] theorem setEnv_portB (v : List EnvInput) : (s.setEnv v).portB = s.portB := rfl
@[simp] theorem setEnv_pinsA (v : List EnvInput) : (s.setEnv v).pinsA = s.pinsA := rfl
@[simp] theorem setEnv_pinsB (v : List EnvInput) : (s.setEnv v).pinsB = s.pinsB := rfl
@[simp] theorem setEnv_trisA (v : List EnvInput) : (s.setEnv v).trisA = s.trisA := rfl
@[simp] theorem setEnv_trisB (v : List EnvInput) : (s.setEnv v).trisB = s.trisB := rfl
@[simp] theorem setEnv_eedata (v : List EnvInput) : (s.setEnv v).eedata = s.eedata := rfl
@[simp] theorem setEnv_eeadr (v : List EnvInput) : (s.setEnv v).eeadr = s.eeadr := rfl
@[simp] theorem setEnv_eecon1 (v : List EnvInput) : (s.setEnv v).eecon1 = s.eecon1 := rfl
@[simp] theorem setEnv_wdt (v : List EnvInput) : (s.setEnv v).wdt = s.wdt := rfl
@[simp] theorem setEnv_prescaler (v : List EnvInput) : (s.setEnv v).prescaler = s.prescaler := rfl
@[simp] theorem setEnv_sleeping (v : List EnvInput) : (s.setEnv v).sleeping = s.sleeping := rfl
@[simp] theorem setEnv_resuming (v : List EnvInput) : (s.setEnv v).resuming = s.resuming := rfl
@[simp] theorem setEnv_gpr (v : List EnvInput) : (s.setEnv v).gpr = s.gpr := rfl
@[simp] theorem setEnv_prog (v : List EnvInput) : (s.setEnv v).prog = s.prog := rfl
@[simp] theorem setEnv_configWord (v : List EnvInput) : (s.setEnv v).configWord = s.configWord := rfl
@[simp] theorem setEnv_outputs (v : List EnvInput) : (s.setEnv v).outputs = s.outputs := rfl
@[simp] theorem setEnv_env (v : List EnvInput) : (s.setEnv v).env = v := rfl
@[simp] theorem setEnv_draws (v : List EnvInput) : (s.setEnv v).draws = s.draws := rfl

/-! ## setDraws -/

@[simp] theorem setDraws_w (v : Nat) : (s.setDraws v).w = s.w := rfl
@[simp] theorem setDraws_pc (v : Nat) : (s.setDraws v).pc = s.pc := rfl
@[simp] theorem setDraws_status (v : Nat) : (s.setDraws v).status = s.status := rfl
@[simp] theorem setDraws_stack (v : Nat) : (s.setDraws v).stack = s.stack := rfl
@[simp] theorem setDraws_pclath (v : Nat) : (s.setDraws v).pclath = s.pclath := rfl
@[simp] theorem setDraws_fsr (v : Nat) : (s.setDraws v).fsr = s.fsr := rfl
@[simp] theorem setDraws_intcon (v : Nat) : (s.setDraws v).intcon = s.intcon := rfl
@[simp] theorem setDraws_optionReg (v : Nat) : (s.setDraws v).optionReg = s.optionReg := rfl
@[simp] theorem setDraws_tmr0 (v : Nat) : (s.setDraws v).tmr0 = s.tmr0 := rfl
@[simp] theorem setDraws_portA (v : Nat) : (s.setDraws v).portA = s.portA := rfl
@[simp] theorem setDraws_portB (v : Nat) : (s.setDraws v).portB = s.portB := rfl
@[simp] theorem setDraws_pinsA (v : Nat) : (s.setDraws v).pinsA = s.pinsA := rfl
@[simp] theorem setDraws_pinsB (v : Nat) : (s.setDraws v).pinsB = s.pinsB := rfl
@[simp] theorem setDraws_trisA (v : Nat) : (s.setDraws v).trisA = s.trisA := rfl
@[simp] theorem setDraws_trisB (v : Nat) : (s.setDraws v).trisB = s.trisB := rfl
@[simp] theorem setDraws_eedata (v : Nat) : (s.setDraws v).eedata = s.eedata := rfl
@[simp] theorem setDraws_eeadr (v : Nat) : (s.setDraws v).eeadr = s.eeadr := rfl
@[simp] theorem setDraws_eecon1 (v : Nat) : (s.setDraws v).eecon1 = s.eecon1 := rfl
@[simp] theorem setDraws_wdt (v : Nat) : (s.setDraws v).wdt = s.wdt := rfl
@[simp] theorem setDraws_prescaler (v : Nat) : (s.setDraws v).prescaler = s.prescaler := rfl
@[simp] theorem setDraws_sleeping (v : Nat) : (s.setDraws v).sleeping = s.sleeping := rfl
@[simp] theorem setDraws_resuming (v : Nat) : (s.setDraws v).resuming = s.resuming := rfl
@[simp] theorem setDraws_gpr (v : Nat) : (s.setDraws v).gpr = s.gpr := rfl
@[simp] theorem setDraws_prog (v : Nat) : (s.setDraws v).prog = s.prog := rfl
@[simp] theorem setDraws_configWord (v : Nat) : (s.setDraws v).configWord = s.configWord := rfl
@[simp] theorem setDraws_outputs (v : Nat) : (s.setDraws v).outputs = s.outputs := rfl
@[simp] theorem setDraws_env (v : Nat) : (s.setDraws v).env = s.env := rfl
@[simp] theorem setDraws_draws (v : Nat) : (s.setDraws v).draws = v := rfl

/-! ## record -/

@[simp] theorem record_w (r : FileReg) (v : Byte) : (s.record r v).w = s.w := rfl
@[simp] theorem record_pc (r : FileReg) (v : Byte) : (s.record r v).pc = s.pc := rfl
@[simp] theorem record_status (r : FileReg) (v : Byte) : (s.record r v).status = s.status := rfl
@[simp] theorem record_stack (r : FileReg) (v : Byte) : (s.record r v).stack = s.stack := rfl
@[simp] theorem record_pclath (r : FileReg) (v : Byte) : (s.record r v).pclath = s.pclath := rfl
@[simp] theorem record_fsr (r : FileReg) (v : Byte) : (s.record r v).fsr = s.fsr := rfl
@[simp] theorem record_intcon (r : FileReg) (v : Byte) : (s.record r v).intcon = s.intcon := rfl
@[simp] theorem record_optionReg (r : FileReg) (v : Byte) : (s.record r v).optionReg = s.optionReg := rfl
@[simp] theorem record_tmr0 (r : FileReg) (v : Byte) : (s.record r v).tmr0 = s.tmr0 := rfl
@[simp] theorem record_portA (r : FileReg) (v : Byte) : (s.record r v).portA = s.portA := rfl
@[simp] theorem record_portB (r : FileReg) (v : Byte) : (s.record r v).portB = s.portB := rfl
@[simp] theorem record_pinsA (r : FileReg) (v : Byte) : (s.record r v).pinsA = s.pinsA := rfl
@[simp] theorem record_pinsB (r : FileReg) (v : Byte) : (s.record r v).pinsB = s.pinsB := rfl
@[simp] theorem record_trisA (r : FileReg) (v : Byte) : (s.record r v).trisA = s.trisA := rfl
@[simp] theorem record_trisB (r : FileReg) (v : Byte) : (s.record r v).trisB = s.trisB := rfl
@[simp] theorem record_eedata (r : FileReg) (v : Byte) : (s.record r v).eedata = s.eedata := rfl
@[simp] theorem record_eeadr (r : FileReg) (v : Byte) : (s.record r v).eeadr = s.eeadr := rfl
@[simp] theorem record_eecon1 (r : FileReg) (v : Byte) : (s.record r v).eecon1 = s.eecon1 := rfl
@[simp] theorem record_wdt (r : FileReg) (v : Byte) : (s.record r v).wdt = s.wdt := rfl
@[simp] theorem record_prescaler (r : FileReg) (v : Byte) : (s.record r v).prescaler = s.prescaler := rfl
@[simp] theorem record_sleeping (r : FileReg) (v : Byte) : (s.record r v).sleeping = s.sleeping := rfl
@[simp] theorem record_resuming (r : FileReg) (v : Byte) : (s.record r v).resuming = s.resuming := rfl
@[simp] theorem record_gpr (r : FileReg) (v : Byte) : (s.record r v).gpr = s.gpr := rfl
@[simp] theorem record_prog (r : FileReg) (v : Byte) : (s.record r v).prog = s.prog := rfl
@[simp] theorem record_configWord (r : FileReg) (v : Byte) : (s.record r v).configWord = s.configWord := rfl
@[simp] theorem record_outputs (r : FileReg) (v : Byte) : (s.record r v).outputs = ⟨r, v⟩ :: s.outputs := rfl
@[simp] theorem record_env (r : FileReg) (v : Byte) : (s.record r v).env = s.env := rfl
@[simp] theorem record_draws (r : FileReg) (v : Byte) : (s.record r v).draws = s.draws := rfl

/-! ## nextPc -/

@[simp] theorem nextPc_w : s.nextPc.w = s.w := rfl
@[simp] theorem nextPc_pc : s.nextPc.pc = s.pc + 1 := rfl
@[simp] theorem nextPc_status : s.nextPc.status = s.status := rfl
@[simp] theorem nextPc_stack : s.nextPc.stack = s.stack := rfl
@[simp] theorem nextPc_pclath : s.nextPc.pclath = s.pclath := rfl
@[simp] theorem nextPc_fsr : s.nextPc.fsr = s.fsr := rfl
@[simp] theorem nextPc_intcon : s.nextPc.intcon = s.intcon := rfl
@[simp] theorem nextPc_optionReg : s.nextPc.optionReg = s.optionReg := rfl
@[simp] theorem nextPc_tmr0 : s.nextPc.tmr0 = s.tmr0 := rfl
@[simp] theorem nextPc_portA : s.nextPc.portA = s.portA := rfl
@[simp] theorem nextPc_portB : s.nextPc.portB = s.portB := rfl
@[simp] theorem nextPc_pinsA : s.nextPc.pinsA = s.pinsA := rfl
@[simp] theorem nextPc_pinsB : s.nextPc.pinsB = s.pinsB := rfl
@[simp] theorem nextPc_trisA : s.nextPc.trisA = s.trisA := rfl
@[simp] theorem nextPc_trisB : s.nextPc.trisB = s.trisB := rfl
@[simp] theorem nextPc_eedata : s.nextPc.eedata = s.eedata := rfl
@[simp] theorem nextPc_eeadr : s.nextPc.eeadr = s.eeadr := rfl
@[simp] theorem nextPc_eecon1 : s.nextPc.eecon1 = s.eecon1 := rfl
@[simp] theorem nextPc_wdt : s.nextPc.wdt = s.wdt := rfl
@[simp] theorem nextPc_prescaler : s.nextPc.prescaler = s.prescaler := rfl
@[simp] theorem nextPc_sleeping : s.nextPc.sleeping = s.sleeping := rfl
@[simp] theorem nextPc_resuming : s.nextPc.resuming = s.resuming := rfl
@[simp] theorem nextPc_gpr : s.nextPc.gpr = s.gpr := rfl
@[simp] theorem nextPc_prog : s.nextPc.prog = s.prog := rfl
@[simp] theorem nextPc_configWord : s.nextPc.configWord = s.configWord := rfl
@[simp] theorem nextPc_outputs : s.nextPc.outputs = s.outputs := rfl
@[simp] theorem nextPc_env : s.nextPc.env = s.env := rfl
@[simp] theorem nextPc_draws : s.nextPc.draws = s.draws := rfl

/-! ## clearWatchdog -/

@[simp] theorem clearWatchdog_w : s.clearWatchdog.w = s.w := rfl
@[simp] theorem clearWatchdog_pc : s.clearWatchdog.pc = s.pc := rfl
@[simp] theorem clearWatchdog_status : s.clearWatchdog.status = s.status := rfl
@[simp] theorem clearWatchdog_stack : s.clearWatchdog.stack = s.stack := rfl
@[simp] theorem clearWatchdog_pclath : s.clearWatchdog.pclath = s.pclath := rfl
@[simp] theorem clearWatchdog_fsr : s.clearWatchdog.fsr = s.fsr := rfl
@[simp] theorem clearWatchdog_intcon : s.clearWatchdog.intcon = s.intcon := rfl
@[simp] theorem clearWatchdog_optionReg : s.clearWatchdog.optionReg = s.optionReg := rfl
@[simp] theorem clearWatchdog_tmr0 : s.clearWatchdog.tmr0 = s.tmr0 := rfl
@[simp] theorem clearWatchdog_portA : s.clearWatchdog.portA = s.portA := rfl
@[simp] theorem clearWatchdog_portB : s.clearWatchdog.portB = s.portB := rfl
@[simp] theorem clearWatchdog_pinsA : s.clearWatchdog.pinsA = s.pinsA := rfl
@[simp] theorem clearWatchdog_pinsB : s.clearWatchdog.pinsB = s.pinsB := rfl
@[simp] theorem clearWatchdog_trisA : s.clearWatchdog.trisA = s.trisA := rfl
@[simp] theorem clearWatchdog_trisB : s.clearWatchdog.trisB = s.trisB := rfl
@[simp] theorem clearWatchdog_eedata : s.clearWatchdog.eedata = s.eedata := rfl
@[simp] theorem clearWatchdog_eeadr : s.clearWatchdog.eeadr = s.eeadr := rfl
@[simp] theorem clearWatchdog_eecon1 : s.clearWatchdog.eecon1 = s.eecon1 := rfl
@[simp] theorem clearWatchdog_wdt : s.clearWatchdog.wdt = 0 := rfl
@[simp] theorem clearWatchdog_prescaler : s.clearWatchdog.prescaler = if s.prescalerToWdt then 0 else s.prescaler := rfl
@[simp] theorem clearWatchdog_sleeping : s.clearWatchdog.sleeping = s.sleeping := rfl
@[simp] theorem clearWatchdog_resuming : s.clearWatchdog.resuming = s.resuming := rfl
@[simp] theorem clearWatchdog_gpr : s.clearWatchdog.gpr = s.gpr := rfl
@[simp] theorem clearWatchdog_prog : s.clearWatchdog.prog = s.prog := rfl
@[simp] theorem clearWatchdog_configWord : s.clearWatchdog.configWord = s.configWord := rfl
@[simp] theorem clearWatchdog_outputs : s.clearWatchdog.outputs = s.outputs := rfl
@[simp] theorem clearWatchdog_env : s.clearWatchdog.env = s.env := rfl
@[simp] theorem clearWatchdog_draws : s.clearWatchdog.draws = s.draws := rfl

/-! ## wake -/

@[simp] theorem wake_w : s.wake.w = s.w := rfl
@[simp] theorem wake_pc : s.wake.pc = s.pc := rfl
@[simp] theorem wake_status : s.wake.status = s.status := rfl
@[simp] theorem wake_stack : s.wake.stack = s.stack := rfl
@[simp] theorem wake_pclath : s.wake.pclath = s.pclath := rfl
@[simp] theorem wake_fsr : s.wake.fsr = s.fsr := rfl
@[simp] theorem wake_intcon : s.wake.intcon = s.intcon := rfl
@[simp] theorem wake_optionReg : s.wake.optionReg = s.optionReg := rfl
@[simp] theorem wake_tmr0 : s.wake.tmr0 = s.tmr0 := rfl
@[simp] theorem wake_portA : s.wake.portA = s.portA := rfl
@[simp] theorem wake_portB : s.wake.portB = s.portB := rfl
@[simp] theorem wake_pinsA : s.wake.pinsA = s.pinsA := rfl
@[simp] theorem wake_pinsB : s.wake.pinsB = s.pinsB := rfl
@[simp] theorem wake_trisA : s.wake.trisA = s.trisA := rfl
@[simp] theorem wake_trisB : s.wake.trisB = s.trisB := rfl
@[simp] theorem wake_eedata : s.wake.eedata = s.eedata := rfl
@[simp] theorem wake_eeadr : s.wake.eeadr = s.eeadr := rfl
@[simp] theorem wake_eecon1 : s.wake.eecon1 = s.eecon1 := rfl
@[simp] theorem wake_wdt : s.wake.wdt = s.wdt := rfl
@[simp] theorem wake_prescaler : s.wake.prescaler = s.prescaler := rfl
@[simp] theorem wake_sleeping : s.wake.sleeping = false := rfl
@[simp] theorem wake_resuming : s.wake.resuming = true := rfl
@[simp] theorem wake_gpr : s.wake.gpr = s.gpr := rfl
@[simp] theorem wake_prog : s.wake.prog = s.prog := rfl
@[simp] theorem wake_configWord : s.wake.configWord = s.configWord := rfl
@[simp] theorem wake_outputs : s.wake.outputs = s.outputs := rfl
@[simp] theorem wake_env : s.wake.env = s.env := rfl
@[simp] theorem wake_draws : s.wake.draws = s.draws := rfl

/-! ## popToPc -/

@[simp] theorem popToPc_w : s.popToPc.w = s.w := rfl
@[simp] theorem popToPc_pc : s.popToPc.pc = s.stack.top := rfl
@[simp] theorem popToPc_status : s.popToPc.status = s.status := rfl
@[simp] theorem popToPc_stack : s.popToPc.stack = s.stack.pop := rfl
@[simp] theorem popToPc_pclath : s.popToPc.pclath = s.pclath := rfl
@[simp] theorem popToPc_fsr : s.popToPc.fsr = s.fsr := rfl
@[simp] theorem popToPc_intcon : s.popToPc.intcon = s.intcon := rfl
@[simp] theorem popToPc_optionReg : s.popToPc.optionReg = s.optionReg := rfl
@[simp] theorem popToPc_tmr0 : s.popToPc.tmr0 = s.tmr0 := rfl
@[simp] theorem popToPc_portA : s.popToPc.portA = s.portA := rfl
@[simp] theorem popToPc_portB : s.popToPc.portB = s.portB := rfl
@[simp] theorem popToPc_pinsA : s.popToPc.pinsA = s.pinsA := rfl
@[simp] theorem popToPc_pinsB : s.popToPc.pinsB = s.pinsB := rfl
@[simp] theorem popToPc_trisA : s.popToPc.trisA = s.trisA := rfl
@[simp] theorem popToPc_trisB : s.popToPc.trisB = s.trisB := rfl
@[simp] theorem popToPc_eedata : s.popToPc.eedata = s.eedata := rfl
@[simp] theorem popToPc_eeadr : s.popToPc.eeadr = s.eeadr := rfl
@[simp] theorem popToPc_eecon1 : s.popToPc.eecon1 = s.eecon1 := rfl
@[simp] theorem popToPc_wdt : s.popToPc.wdt = s.wdt := rfl
@[simp] theorem popToPc_prescaler : s.popToPc.prescaler = s.prescaler := rfl
@[simp] theorem popToPc_sleeping : s.popToPc.sleeping = s.sleeping := rfl
@[simp] theorem popToPc_resuming : s.popToPc.resuming = s.resuming := rfl
@[simp] theorem popToPc_gpr : s.popToPc.gpr = s.gpr := rfl
@[simp] theorem popToPc_prog : s.popToPc.prog = s.prog := rfl
@[simp] theorem popToPc_configWord : s.popToPc.configWord = s.configWord := rfl
@[simp] theorem popToPc_outputs : s.popToPc.outputs = s.outputs := rfl
@[simp] theorem popToPc_env : s.popToPc.env = s.env := rfl
@[simp] theorem popToPc_draws : s.popToPc.draws = s.draws := rfl

/-! ## push -/

@[simp] theorem push_w (a : ProgAddr) : (s.push a).w = s.w := rfl
@[simp] theorem push_pc (a : ProgAddr) : (s.push a).pc = s.pc := rfl
@[simp] theorem push_status (a : ProgAddr) : (s.push a).status = s.status := rfl
@[simp] theorem push_stack (a : ProgAddr) : (s.push a).stack = s.stack.push a := rfl
@[simp] theorem push_pclath (a : ProgAddr) : (s.push a).pclath = s.pclath := rfl
@[simp] theorem push_fsr (a : ProgAddr) : (s.push a).fsr = s.fsr := rfl
@[simp] theorem push_intcon (a : ProgAddr) : (s.push a).intcon = s.intcon := rfl
@[simp] theorem push_optionReg (a : ProgAddr) : (s.push a).optionReg = s.optionReg := rfl
@[simp] theorem push_tmr0 (a : ProgAddr) : (s.push a).tmr0 = s.tmr0 := rfl
@[simp] theorem push_portA (a : ProgAddr) : (s.push a).portA = s.portA := rfl
@[simp] theorem push_portB (a : ProgAddr) : (s.push a).portB = s.portB := rfl
@[simp] theorem push_pinsA (a : ProgAddr) : (s.push a).pinsA = s.pinsA := rfl
@[simp] theorem push_pinsB (a : ProgAddr) : (s.push a).pinsB = s.pinsB := rfl
@[simp] theorem push_trisA (a : ProgAddr) : (s.push a).trisA = s.trisA := rfl
@[simp] theorem push_trisB (a : ProgAddr) : (s.push a).trisB = s.trisB := rfl
@[simp] theorem push_eedata (a : ProgAddr) : (s.push a).eedata = s.eedata := rfl
@[simp] theorem push_eeadr (a : ProgAddr) : (s.push a).eeadr = s.eeadr := rfl
@[simp] theorem push_eecon1 (a : ProgAddr) : (s.push a).eecon1 = s.eecon1 := rfl
@[simp] theorem push_wdt (a : ProgAddr) : (s.push a).wdt = s.wdt := rfl
@[simp] theorem push_prescaler (a : ProgAddr) : (s.push a).prescaler = s.prescaler := rfl
@[simp] theorem push_sleeping (a : ProgAddr) : (s.push a).sleeping = s.sleeping := rfl
@[simp] theorem push_resuming (a : ProgAddr) : (s.push a).resuming = s.resuming := rfl
@[simp] theorem push_gpr (a : ProgAddr) : (s.push a).gpr = s.gpr := rfl
@[simp] theorem push_prog (a : ProgAddr) : (s.push a).prog = s.prog := rfl
@[simp] theorem push_configWord (a : ProgAddr) : (s.push a).configWord = s.configWord := rfl
@[simp] theorem push_outputs (a : ProgAddr) : (s.push a).outputs = s.outputs := rfl
@[simp] theorem push_env (a : ProgAddr) : (s.push a).env = s.env := rfl
@[simp] theorem push_draws (a : ProgAddr) : (s.push a).draws = s.draws := rfl

/-! ## skipIf -/

@[simp] theorem skipIf_w (b : Bool) : (s.skipIf b).w = s.w := rfl
@[simp] theorem skipIf_pc (b : Bool) : (s.skipIf b).pc = if b then s.pc + 2 else s.pc + 1 := rfl
@[simp] theorem skipIf_status (b : Bool) : (s.skipIf b).status = s.status := rfl
@[simp] theorem skipIf_stack (b : Bool) : (s.skipIf b).stack = s.stack := rfl
@[simp] theorem skipIf_pclath (b : Bool) : (s.skipIf b).pclath = s.pclath := rfl
@[simp] theorem skipIf_fsr (b : Bool) : (s.skipIf b).fsr = s.fsr := rfl
@[simp] theorem skipIf_intcon (b : Bool) : (s.skipIf b).intcon = s.intcon := rfl
@[simp] theorem skipIf_optionReg (b : Bool) : (s.skipIf b).optionReg = s.optionReg := rfl
@[simp] theorem skipIf_tmr0 (b : Bool) : (s.skipIf b).tmr0 = s.tmr0 := rfl
@[simp] theorem skipIf_portA (b : Bool) : (s.skipIf b).portA = s.portA := rfl
@[simp] theorem skipIf_portB (b : Bool) : (s.skipIf b).portB = s.portB := rfl
@[simp] theorem skipIf_pinsA (b : Bool) : (s.skipIf b).pinsA = s.pinsA := rfl
@[simp] theorem skipIf_pinsB (b : Bool) : (s.skipIf b).pinsB = s.pinsB := rfl
@[simp] theorem skipIf_trisA (b : Bool) : (s.skipIf b).trisA = s.trisA := rfl
@[simp] theorem skipIf_trisB (b : Bool) : (s.skipIf b).trisB = s.trisB := rfl
@[simp] theorem skipIf_eedata (b : Bool) : (s.skipIf b).eedata = s.eedata := rfl
@[simp] theorem skipIf_eeadr (b : Bool) : (s.skipIf b).eeadr = s.eeadr := rfl
@[simp] theorem skipIf_eecon1 (b : Bool) : (s.skipIf b).eecon1 = s.eecon1 := rfl
@[simp] theorem skipIf_wdt (b : Bool) : (s.skipIf b).wdt = s.wdt := rfl
@[simp] theorem skipIf_prescaler (b : Bool) : (s.skipIf b).prescaler = s.prescaler := rfl
@[simp] theorem skipIf_sleeping (b : Bool) : (s.skipIf b).sleeping = s.sleeping := rfl
@[simp] theorem skipIf_resuming (b : Bool) : (s.skipIf b).resuming = s.resuming := rfl
@[simp] theorem skipIf_gpr (b : Bool) : (s.skipIf b).gpr = s.gpr := rfl
@[simp] theorem skipIf_prog (b : Bool) : (s.skipIf b).prog = s.prog := rfl
@[simp] theorem skipIf_configWord (b : Bool) : (s.skipIf b).configWord = s.configWord := rfl
@[simp] theorem skipIf_outputs (b : Bool) : (s.skipIf b).outputs = s.outputs := rfl
@[simp] theorem skipIf_env (b : Bool) : (s.skipIf b).env = s.env := rfl
@[simp] theorem skipIf_draws (b : Bool) : (s.skipIf b).draws = s.draws := rfl

end Sys2Proof.Machine
end

