-- ==== Sys2Proof/Laws/Ops.lean ====
section
/-! SUPPORT. For each shared operation one lemma that says everything it does. -/

namespace Sys2Proof.Machine

/-! ## Operands -/

@[simp] theorem target_setPc (f : FileAddr) (s : State) (a : ProgAddr) :
    target f (s.setPc a) = target f s := rfl

@[simp] theorem target_setDraws (f : FileAddr) (s : State) (n : Nat) :
    target f (s.setDraws n) = target f s := rfl

@[simp] theorem setDraws_self (s : State) : s.setDraws s.draws = s := rfl

theorem setResuming_eq_self {s : State} {b : Bool} (h : s.resuming = b) : s.setResuming b = s := by
  subst h; rfl

/-- A read changes nothing but the number of the next free value. -/
theorem afterRead_eq (f : FileAddr) (s : State) : ∃ n, afterRead f s = s.setDraws n := by
  unfold afterRead
  split
  · exact ⟨_, rfl⟩
  · exact ⟨s.draws, rfl⟩

theorem sfrMap_ne_gpr (n : Nat) (b : Bool) (l : FileAddr) : sfrMap n b ≠ .gpr l := by
  unfold sfrMap
  split <;> (try cases b) <;> simp

/-- A general-purpose byte that an address reaches lies in 0Ch to 4Fh. -/
theorem resolve_gpr (a : DataAddr) (l : FileAddr) (h : resolve a = .gpr l) :
    0x0C ≤ l.toNat ∧ l.toNat ≤ 0x4F := by
  unfold resolve at h
  simp only at h
  split at h
  · exact absurd h (sfrMap_ne_gpr _ _ _)
  · split at h
    · injection h with h
      subst h
      omega
    · cases h

/-! ## Writes of registers -/

/-- What every register holds after a write, but STATUS and the view PCL of the program counter. -/
theorem held_writeReg (r r' : FileReg) (v : Byte) (s : State) (h : r' ≠ .status) (h' : r' ≠ .pcl) :
    held r' (writeReg r v s) = if r' = r then keptOf r v else held r' s := by
  have five : (v.extractLsb' 0 5).setWidth 8 = v &&& 0x1F#8 := by
    apply BitVec.eq_of_getLsbD_eq; intro i hi
    interval_cases i <;> simp
  cases r <;> cases r' <;>
    first
    | contradiction
    | rfl
    | exact five
    | (rename_i a b
       by_cases e : b = a
       · subst e; simp [held, writeReg, keptOf]
       · have : b.toNat ≠ a.toNat := fun x => e (BitVec.eq_of_toNat_eq x)
         simp [held, writeReg, e, memory_read_write_other _ _ this])

/-- The pieces of state no register write touches. -/
theorem writeReg_background (r : FileReg) (v : Byte) (s : State) :
    SameBackground s (writeReg r v s) ∧ (writeReg r v s).w = s.w ∧
      (writeReg r v s).draws = s.draws := by
  cases r <;> exact ⟨⟨rfl, rfl, rfl, rfl, rfl, rfl, rfl, rfl, rfl⟩, rfl, rfl⟩

theorem writeReg_status (r : FileReg) (v : Byte) (s : State) :
    (writeReg r v s).status =
      if r = .status then statusWritePlain v s.status else s.status := by
  cases r <;> rfl

theorem writeReg_pc (r : FileReg) (v : Byte) (s : State) :
    (writeReg r v s).pc = if r = .pcl then s.pclath ++ v else s.pc := by
  cases r <;> rfl

theorem writeReg_prescaler (r : FileReg) (v : Byte) (s : State) :
    (writeReg r v s).prescaler =
      if r = .tmr0 ∧ s.prescalerToWdt = false then 0 else s.prescaler := by
  cases r <;> first | rfl | (cases h : s.prescalerToWdt <;> simp [writeReg, h])

theorem writeReg_outputs (r : FileReg) (v : Byte) (s : State) :
    (writeReg r v s).outputs =
      if r.recorded = true then ⟨r, v⟩ :: s.outputs else s.outputs := by
  cases r <;> rfl

theorem held_setStatus (r : FileReg) (v : Byte) (s : State) (h : r ≠ .status) :
    held r (s.setStatus v) = held r s := by
  cases r <;> first | contradiction | rfl

/-! ## WriteDest -/

theorem isEmpty_iff (u : FlagUpdate) :
    u.isEmpty = true ↔ u.z = none ∧ u.dc = none ∧ u.c = none := by
  simp [FlagUpdate.isEmpty, and_assoc]

theorem statusBitIs_getD (n : Nat) (o : Option Bool) (s t : State)
    (h : t.status.getLsbD n = o.getD (s.status.getLsbD n)) : StatusBitIs n o none s t := by
  cases o <;> exact h

/-- Everything WriteDest does (40_byte_oriented.md R82), from a state that differs from `s` by the
program counter and the free values used. -/
theorem writeDest_stores (f : FileAddr) (d : Dest) (r : AluResult) (a : ProgAddr) (n : Nat)
    (s : State) :
    Stores f d r.value r.flags.z r.flags.dc r.flags.c a s
      (writeDest f d r ((s.setDraws n).setPc a)) := by
  have same : ∀ t : State, t = (s.setDraws n).setPc a → SameBackground s t := by
    rintro _ rfl; exact ⟨rfl, rfl, rfl, rfl, rfl, rfl, rfl, rfl, rfl⟩
  cases d with
  | w =>
    refine ⟨rfl, ?_, ?_, ?_, ?_, ?_, ?_, rfl, rfl, rfl, ?_⟩
    · intro x hx hp
      cases x <;> first | contradiction | rfl
    · simp [writeDest]
    · simp [writeDest]
    · simp only [storedInStatus]
      exact statusBitIs_getD 2 _ _ _ (apply_z ..)
    · simp only [storedInStatus]
      exact statusBitIs_getD 1 _ _ _ (apply_dc ..)
    · simp only [storedInStatus]
      exact statusBitIs_getD 0 _ _ _ (apply_c ..)
    · exact ⟨rfl, rfl, rfl, rfl, rfl, rfl, rfl, rfl, rfl⟩
  | f =>
    by_cases ht : target f s = .status
    · have hw : writeDest f .f r ((s.setDraws n).setPc a) =
          ((s.setDraws n).setPc a).setStatus (statusWrite r.value r.flags s.status) := by
        simp [writeDest, ht]
      rw [hw]
      have bit : ∀ (k : Nat) (o : Option Bool),
          (statusWrite r.value r.flags s.status).getLsbD k =
            (if r.flags.isEmpty then r.value.getLsbD k else o.getD (s.status.getLsbD k)) →
          (r.flags.isEmpty = true → o = none) →
          StatusBitIs k o
            (storedInStatus f .f r.value r.flags.z r.flags.dc r.flags.c s) s
            (((s.setDraws n).setPc a).setStatus (statusWrite r.value r.flags s.status)) := by
        intro k o h hn
        by_cases he : r.flags.isEmpty = true
        · have := (isEmpty_iff _).1 he
          simp [StatusBitIs, storedInStatus, ht, this, hn he, h, he]
        · have : ¬ (r.flags.z = none ∧ r.flags.dc = none ∧ r.flags.c = none) :=
            fun x => he ((isEmpty_iff _).2 x)
          cases o <;> simp [StatusBitIs, storedInStatus, ht, this, h, he]
      refine ⟨rfl, ?_, ?_, ?_, ?_, ?_, ?_, ?_, ?_, ?_, ?_⟩
      · intro x hx hp
        have : ¬ x = target f s := by rw [ht]; exact hx
        rw [held_setStatus _ _ _ hx]
        simp only [this, and_false, if_false]
        cases x <;> first | contradiction | rfl
      · simp [ht]
      · simp
      · exact bit 2 _ (statusWrite_z ..) (fun h => ((isEmpty_iff _).1 h).1)
      · exact bit 1 _ (statusWrite_dc ..) (fun h => ((isEmpty_iff _).1 h).2.1)
      · exact bit 0 _ (statusWrite_c ..) (fun h => ((isEmpty_iff _).1 h).2.2)
      · simp [ht]
      · simp [ht]
      · simp [ht, FileReg.recorded]
      · exact ⟨rfl, rfl, rfl, rfl, rfl, rfl, rfl, rfl, rfl⟩
    · have hw : writeDest f .f r ((s.setDraws n).setPc a) =
          (writeReg (target f s) r.value ((s.setDraws n).setPc a)).setStatus
            (r.flags.apply s.status) := by
        simp [writeDest, ht, writeReg_status]
      rw [hw]
      obtain ⟨hb, hw', -⟩ := writeReg_background (target f s) r.value ((s.setDraws n).setPc a)
      refine ⟨by simpa using hw', ?_, ?_, ?_, ?_, ?_, ?_, ?_, ?_, ?_, ?_⟩
      · intro x hx hp
        rw [held_setStatus _ _ _ hx, held_writeReg _ _ _ _ hx hp]
        by_cases e : x = target f s
        · simp [e]
        · simp only [e, if_false, and_false]
          cases x <;> first | contradiction | rfl
      · simp [ht]
      · simp
      · simp only [storedInStatus, ht, false_and, and_false, if_false]
        exact statusBitIs_getD 2 _ _ _ (apply_z ..)
      · simp only [storedInStatus, ht, false_and, and_false, if_false]
        exact statusBitIs_getD 1 _ _ _ (apply_dc ..)
      · simp only [storedInStatus, ht, false_and, and_false, if_false]
        exact statusBitIs_getD 0 _ _ _ (apply_c ..)
      · simp [writeReg_pc]
      · simp [writeReg_prescaler, State.prescalerToWdt]
      · simp [writeReg_outputs]
      · exact hb

/-- An instruction that reads `f` and stores a result. -/
theorem readModifyStore_stores (f : FileAddr) (d : Dest) (r : AluResult) (s : State) :
    Stores f d r.value r.flags.z r.flags.dc r.flags.c (s.pc + 1) s (readModifyStore f d r s) := by
  obtain ⟨n, h⟩ := afterRead_eq f s
  simpa [readModifyStore, h, State.nextPc] using writeDest_stores f d r (s.pc + 1) n s

/-- As `readModifyStore_stores`, with the skip. -/
theorem readModifyStoreSkip_stores (f : FileAddr) (d : Dest) (r : AluResult) (s : State) :
    Stores f d r.value r.flags.z r.flags.dc r.flags.c
      (if r.value = 0 then s.pc + 2 else s.pc + 1) s (readModifyStoreSkip f d r s) := by
  obtain ⟨n, h⟩ := afterRead_eq f s
  have := writeDest_stores f d r (if r.value = 0 then s.pc + 2 else s.pc + 1) n s
  simpa [readModifyStoreSkip, h, State.skipIf] using this

/-- An instruction that stores a result without reading `f`. -/
theorem writeDest_nextPc_stores (f : FileAddr) (d : Dest) (r : AluResult) (s : State) :
    Stores f d r.value r.flags.z r.flags.dc r.flags.c (s.pc + 1) s (writeDest f d r s.nextPc) :=
  writeDest_stores f d r (s.pc + 1) s.draws s

/-- Everything a literal operation does. -/
theorem storeW_stores (r : AluResult) (s : State) :
    StoresW r.value r.flags.z r.flags.dc r.flags.c s (storeW r s) := by
  refine ⟨by simp [storeW], ?_, ?_, ?_, rfl⟩
  · exact statusBitIs_getD 2 _ _ _ (apply_z ..)
  · exact statusBitIs_getD 1 _ _ _ (apply_dc ..)
  · exact statusBitIs_getD 0 _ _ _ (apply_c ..)

/-! ## The stack -/

/-- A push keeps the eight slots, and puts the entry before those there is room for. -/
theorem push_slots (v : ProgAddr) (k : Stack) (h : k.slots.length = Config.stackDepth) :
    (k.push v).slots.length = Config.stackDepth ∧ (k.push v).live ≤ Config.stackDepth := by
  simp only [Stack.push, Config.stackDepth, List.length_take, List.length_cons] at h ⊢
  omega

/-- A pop keeps the eight slots. -/
theorem pop_slots (k : Stack) (h : k.slots.length = Config.stackDepth)
    (hl : k.live ≤ Config.stackDepth) :
    k.pop.slots.length = Config.stackDepth ∧ k.pop.live ≤ Config.stackDepth := by
  simp only [Stack.pop, Config.stackDepth, List.length_append, List.length_tail,
    List.length_take] at h hl ⊢
  omega

/-! ## Interrupts -/

/-- Everything interrupt entry does (60_exceptions.md R146). -/
theorem interruptEntry_eq (s : State) :
    interruptEntry s =
      { s with stack := s.stack.push s.pc, intcon := intconWithGie false s.intcon,
               pc := Config.intVector } := rfl

/-- Everything the return from interrupt does (60_exceptions.md R148). -/
theorem returnFromInterrupt_eq (s : State) :
    returnFromInterrupt s =
      { s with pc := s.stack.top, stack := s.stack.pop, intcon := intconWithGie true s.intcon } := rfl

theorem intconWithGie_gie (b : Bool) (v : Byte) : (intconWithGie b v).getLsbD 7 = b := by
  refine (getLsbD_concat _ _ 7).trans ?_
  simp

@[simp] theorem intconWithGie_gie_elem (b : Bool) (v : Byte) : (intconWithGie b v)[7] = b := by
  simpa using intconWithGie_gie b v

/-- Replacing GIE leaves the other seven bits of INTCON. -/
theorem intconWithGie_other (b : Bool) (v : Byte) (i : Nat) (h : i < 7) :
    (intconWithGie b v).getLsbD i = v.getLsbD i := by
  refine (getLsbD_concat _ _ i).trans ?_
  rw [if_pos h, BitVec.getLsbD_extractLsb', Nat.zero_add, decide_eq_true h, Bool.true_and]

/-! ## Reset -/

theorem unknownGpr_wf (seed n : Nat) (h : n ≤ 68) : Memory.wf (unknownGpr seed n) = true := by
  induction n with
  | zero => rfl
  | succ n ih => exact memory_write_wf _ _ _ (ih (by omega)) ⟨by omega, by omega⟩

/-- What every reset leaves, whatever its kind (70_reset_and_hazards.md R172). -/
theorem deviceReset_leaves (kind : ResetKind) (s : State) :
    (deviceReset kind s).pc = Config.resetVector ∧ (deviceReset kind s).sleeping = false ∧
      (deviceReset kind s).resuming = false ∧ (deviceReset kind s).stack.live = 0 ∧ (deviceReset kind s).pclath = 0 ∧
      (deviceReset kind s).optionReg = 0xFF ∧ (deviceReset kind s).trisA = 0x1F ∧
      (deviceReset kind s).trisB = 0xFF ∧ (deviceReset kind s).wdt = 0 ∧
      (deviceReset kind s).prescaler = 0 ∧ (deviceReset kind s).prog = s.prog ∧
      (deviceReset kind s).configWord = s.configWord ∧ (deviceReset kind s).env = s.env ∧
      (deviceReset kind s).outputs = s.outputs ∧ (deviceReset kind s).pinsA = s.pinsA ∧
      (deviceReset kind s).pinsB = s.pinsB := by
  cases kind <;>
    exact ⟨rfl, rfl, rfl, rfl, rfl, rfl, rfl, rfl, rfl, rfl, rfl, rfl, rfl, rfl, rfl, rfl⟩

end Sys2Proof.Machine
end

