-- ==== Sys2Proof/Laws/Step.lean ====
section
/-! SUPPORT. What a boundary and a step can do. -/

namespace Sys2Proof.Machine

/-- Every instruction answers a next state: the machine raises no synchronous exception
(60_exceptions.md R140). -/
theorem exec_completes (i : Instr) (s : State) : ∃ t, exec i s = .next t := by
  cases i <;> exact ⟨_, rfl⟩

/-- Everything an execution can be: the shared operation it applies, and to which file operand, which is
what the instruction writes where the destination is the file register. -/
theorem exec_cases {i : Instr} {s t : State} (h : exec i s = .next t) :
    (∃ f d r, fileOperand i = some f ∧ (d = .f → (writtenBy i).file = some f) ∧
      t = readModifyStore f d r s) ∨
    (∃ f d r, fileOperand i = some f ∧ (d = .f → (writtenBy i).file = some f) ∧
      t = readModifyStoreSkip f d r s) ∨
    (∃ f r, fileOperand i = some f ∧ (writtenBy i).file = some f ∧ t = writeDest f .f r s.nextPc) ∨
    (∃ f b, fileOperand i = some f ∧ t = (afterRead f s).skipIf b) ∨
    (∃ r, t = storeW r s) ∨
    (i = .nop ∧ t = s.nextPc) ∨
    (∃ k, i = .goto k ∧ t = s.setPc (jumpTarget k s)) ∨
    (∃ k, i = .call k ∧ t = (s.push (s.pc + 1)).setPc (jumpTarget k s)) ∨
    (i = .ret ∧ t = s.popToPc) ∨
    (∃ k, i = .retlw k ∧ t = s.popToPc.setW k) ∨
    (i = .retfie ∧ t = returnFromInterrupt s) ∨
    (i = .clrwdt ∧ t = (s.clearWatchdog.setStatus (statusTimePower true true s.status)).nextPc) ∨
    (i = .sleep ∧ t =
      (s.clearWatchdog.setStatus (statusTimePower true false s.status)).nextPc.setSleeping true) ∨
    (i = .option ∧ t = writeReg .optionReg s.w s.nextPc) ∨
    (i = .trisA ∧ t = writeReg .trisA s.w s.nextPc) ∨
    (i = .trisB ∧ t = writeReg .trisB s.w s.nextPc) := by
  match i, h with
  | .addwf .., h | .andwf .., h | .comf .., h | .decf .., h | .incf .., h | .iorwf .., h
  | .movf .., h | .rlf .., h | .rrf .., h | .subwf .., h | .swapf .., h | .xorwf .., h =>
    injection h with h; exact .inl ⟨_, _, _, rfl, by rintro rfl; rfl, h.symm⟩
  | .bcf .., h | .bsf .., h => injection h with h; exact .inl ⟨_, _, _, rfl, fun _ => rfl, h.symm⟩
  | .decfsz .., h | .incfsz .., h =>
    injection h with h; exact .inr (.inl ⟨_, _, _, rfl, by rintro rfl; rfl, h.symm⟩)
  | .clrf .., h | .movwf .., h =>
    injection h with h; exact .inr (.inr (.inl ⟨_, _, rfl, rfl, h.symm⟩))
  | .btfsc .., h | .btfss .., h =>
    injection h with h; exact .inr (.inr (.inr (.inl ⟨_, _, rfl, h.symm⟩)))
  | .clrw, h | .addlw .., h | .andlw .., h | .iorlw .., h | .movlw .., h | .sublw .., h
  | .xorlw .., h => injection h with h; exact .inr (.inr (.inr (.inr (.inl ⟨_, h.symm⟩))))
  | .nop, h | .goto _, h | .call _, h | .ret, h | .retlw _, h | .retfie, h | .clrwdt, h | .sleep, h
  | .option, h | .trisA, h | .trisB, h =>
    injection h with h
    subst h
    simp only [reduceCtorEq, Instr.goto.injEq, Instr.call.injEq, Instr.retlw.injEq, fileOperand,
      false_and, exists_false, exists_eq_left', false_or, or_false, true_and]
    first | rfl | exact .inr trivial

/-- Everything a step that answers a next state can have done: the boundary ended it, or it was interrupt
entry, or an instruction was fetched and executed. -/
theorem step_cases {s t : State} (h : step s = .next t) :
    boundary s = .settled t ∨ (∃ u, boundary s = .entering u ∧ t = interruptEntry u) ∨
      ∃ u i, boundary s = .running u ∧ fetch u = .ok i ∧ exec i u = .next t := by
  unfold step at h
  split at h
  · next u hb =>
    injection h with h
    exact .inl (h ▸ hb)
  · next u hb =>
    injection h with h
    exact .inr (.inl ⟨u, hb, h.symm⟩)
  · next u hb =>
    unfold runInstruction at h
    split at h
    · next i hf => exact .inr (.inr ⟨u, i, hb, hf, h⟩)
    · cases h

/-- A boundary that ends the step. -/
theorem step_settled {s t : State} (h : boundary s = .settled t) : step s = .next t := by
  simp [step, h]

/-- A boundary at which interrupt entry happens. -/
theorem step_entering {s u : State} (h : boundary s = .entering u) :
    step s = .next (interruptEntry u) := by
  simp [step, h]

/-- A boundary after which an instruction runs. -/
theorem step_running {s u : State} {i : Instr} (h : boundary s = .running u) (hf : fetch u = .ok i) :
    step s = exec i u := by
  simp [step, h, runInstruction, hf]

/-- A boundary after which the fetched word is no instruction. -/
theorem step_unassigned {s u : State} {iw : InstrWord} (h : boundary s = .running u)
    (hf : fetch u = .error (.unassigned iw)) : step s = .refused (.unassignedWord iw) := by
  simp [step, h, runInstruction, hf]

/-! ## The boundary -/

/-- Everything a boundary can be: a reset; in SLEEP a wake-up by a time-out, a wake-up by a request, or
SLEEP going on; while executing a watchdog reset, interrupt entry, or an instruction that runs. -/
theorem boundary_cases (s : State) :
    (∃ r, s.input.reset = some r ∧
      boundary s = .settled (raiseFlags s.input s.sleeping (raisedReset r s.driven))) ∨
    (s.input.reset = none ∧
      ((s.sleeping = true ∧ s.timesOut = true ∧
         boundary s = .settled (watchdogWake (raiseFlags s.input true s.driven))) ∨
       (s.sleeping = true ∧ s.timesOut = false ∧
         (raiseFlags s.input true s.driven).interruptRequest = true ∧
         boundary s = .settled (raiseFlags s.input true s.driven).wake) ∨
       (s.sleeping = true ∧ s.timesOut = false ∧
         (raiseFlags s.input true s.driven).interruptRequest = false ∧
         boundary s = .settled (raiseFlags s.input true s.driven)) ∨
       (s.sleeping = false ∧ s.timesOut = true ∧
         boundary s = .settled (raiseFlags s.input false (deviceReset .watchdog s.driven))) ∨
       (s.sleeping = false ∧ s.timesOut = false ∧
         (raiseFlags s.input false s.driven).entersInterrupt = true ∧
         boundary s = .entering (raiseFlags s.input false s.driven)) ∨
       (s.sleeping = false ∧ s.timesOut = false ∧
         (raiseFlags s.input false s.driven).entersInterrupt = false ∧
         boundary s = .running ((raiseFlags s.input false s.driven).setResuming false)))) := by
  unfold boundary sleepBoundary awakeBoundary
  cases s.input.reset <;> cases s.sleeping <;> cases s.timesOut <;>
    cases hi : (raiseFlags s.input true s.driven).interruptRequest <;>
    cases he : (raiseFlags s.input false s.driven).entersInterrupt <;> simp [*]

/-- The boundary after which an instruction runs: awake, no reset, no time-out, no interrupt entry. -/
theorem boundary_running_cases {s u : State} (h : boundary s = .running u) :
    s.input.reset = none ∧ s.sleeping = false ∧ s.timesOut = false ∧
      (raiseFlags s.input false s.driven).entersInterrupt = false ∧
      u = (raiseFlags s.input false s.driven).setResuming false := by
  rcases boundary_cases s with ⟨r, -, hb⟩ | ⟨hr, hc⟩
  · simp [hb] at h
  · rcases hc with ⟨-, -, hb⟩ | ⟨-, -, -, hb⟩ | ⟨-, -, -, hb⟩ | ⟨-, -, hb⟩ | ⟨-, -, -, hb⟩ |
      ⟨ha, ht, hi, hb⟩ <;> rw [hb] at h <;> cases h
    exact ⟨hr, ha, ht, hi, rfl⟩

/-- The boundary at which interrupt entry happens: awake, no reset, no time-out, entry due. -/
theorem boundary_entering_cases {s u : State} (h : boundary s = .entering u) :
    s.input.reset = none ∧ s.sleeping = false ∧ s.timesOut = false ∧ u.entersInterrupt = true ∧
      u = raiseFlags s.input false s.driven := by
  rcases boundary_cases s with ⟨r, -, hb⟩ | ⟨hr, hc⟩
  · simp [hb] at h
  · rcases hc with ⟨-, -, hb⟩ | ⟨-, -, -, hb⟩ | ⟨-, -, -, hb⟩ | ⟨-, -, hb⟩ | ⟨ha, ht, hi, hb⟩ |
      ⟨-, -, -, hb⟩ <;> rw [hb] at h <;> cases h
    exact ⟨hr, ha, ht, hi, rfl⟩

/-- The boundary while executing, no reset, no time-out, no interrupt entry due: the instruction runs. -/
theorem boundary_running {s : State} (hr : s.input.reset = none) (ha : s.sleeping = false)
    (ht : s.timesOut = false) (hi : (raiseFlags s.input false s.driven).entersInterrupt = false) :
    boundary s = .running ((raiseFlags s.input false s.driven).setResuming false) := by
  simp [boundary, awakeBoundary, hr, ha, ht, hi]

/-- Everything a boundary that ends the step can be: a reset, a wake-up by a time-out, a wake-up by a
request, SLEEP going on, or a watchdog reset. -/
theorem boundary_settled_cases {s t : State} (h : boundary s = .settled t) :
    (∃ r, s.input.reset = some r ∧ t = raiseFlags s.input s.sleeping (raisedReset r s.driven)) ∨
    (s.input.reset = none ∧
      ((s.sleeping = true ∧ s.timesOut = true ∧
         t = watchdogWake (raiseFlags s.input true s.driven)) ∨
       (s.sleeping = true ∧ s.timesOut = false ∧
         (raiseFlags s.input true s.driven).interruptRequest = true ∧
         t = (raiseFlags s.input true s.driven).wake) ∨
       (s.sleeping = true ∧ s.timesOut = false ∧
         (raiseFlags s.input true s.driven).interruptRequest = false ∧
         t = raiseFlags s.input true s.driven) ∨
       (s.sleeping = false ∧ s.timesOut = true ∧
         t = raiseFlags s.input false (deviceReset .watchdog s.driven)))) := by
  rcases boundary_cases s with ⟨r, hr, hb⟩ | ⟨hr, hc⟩
  · rw [hb] at h
    cases h
    exact .inl ⟨r, hr, rfl⟩
  · refine .inr ⟨hr, ?_⟩
    rcases hc with ⟨ha, ht, hb⟩ | ⟨ha, ht, hi, hb⟩ | ⟨ha, ht, hi, hb⟩ | ⟨ha, ht, hb⟩ |
      ⟨-, -, -, hb⟩ | ⟨-, -, -, hb⟩ <;> rw [hb] at h <;> cases h
    · exact .inl ⟨ha, ht, rfl⟩
    · exact .inr (.inl ⟨ha, ht, hi, rfl⟩)
    · exact .inr (.inr (.inl ⟨ha, ht, hi, rfl⟩))
    · exact .inr (.inr (.inr ⟨ha, ht, rfl⟩))

/-- What raising flags leaves: everything but INTCON and EECON1. -/
theorem raiseFlags_eq (e : EnvInput) (b : Bool) (s : State) :
    raiseFlags e b s =
      { s with intcon := (raiseFlags e b s).intcon, eecon1 := (raiseFlags e b s).eecon1 } := rfl

/-- Raising flags leaves GIE and the enable bits. -/
theorem raiseFlags_intcon_high (e : EnvInput) (b : Bool) (s : State) (i : Nat) (h : 3 ≤ i) :
    (raiseFlags e b s).intcon.getLsbD i = s.intcon.getLsbD i := by
  by_cases h8 : i < 8
  · refine (getLsbD_concat _ _ i).trans ?_
    rw [getLsbD_concat, getLsbD_concat, BitVec.getLsbD_extractLsb']
    interval_cases i <;> simp
  · rw [BitVec.getLsbD_of_ge _ i (by omega), BitVec.getLsbD_of_ge _ i (by omega)]

/-- What cutting an instruction short leaves, whatever it was writing: the stack, the pins, the watchdog,
SLEEPING, program memory, the configuration word, ENV. -/
theorem cutShort_background (x : Written) (s : State) : SameBackground s (cutShort x s) := by
  have hd : ∀ f r, SameBackground s (writeDest f .f r s) := fun f r =>
    (writeDest_stores f .f r s.pc s.draws s).background
  obtain ⟨w, file, flags, timePower⟩ := x
  cases file with
  | none => cases w <;> cases timePower <;> exact ⟨rfl, rfl, rfl, rfl, rfl, rfl, rfl, rfl, rfl⟩
  | some f => cases w <;> cases timePower <;> exact hd f _

/-- What cutting an instruction short leaves of the registers: all but its file destination, STATUS, and
the view PCL of the program counter. -/
theorem cutShort_held (x : Written) (s : State) (r : FileReg) (hs : r ≠ .status) (hp : r ≠ .pcl)
    (h : ∀ f, x.file = some f → target f s ≠ r) : held r (cutShort x s) = held r s := by
  have hw : ∀ (b : Byte) (t : State), held r (t.setW b) = held r t := fun b t => by cases r <;> rfl
  have hd : ∀ (n : Nat) (t : State), held r (t.setDraws n) = held r t := fun n t => by
    cases r <;> rfl
  have hf : ∀ f v, x.file = some f → held r (writeDest f .f v s) = held r s := fun f v hx =>
    ((writeDest_stores f .f v s.pc s.draws s).registers r hs hp).trans
      (if_neg fun e => h f hx e.2.symm)
  obtain ⟨w, file, flags, timePower⟩ := x
  cases file with
  | none => cases w <;> cases timePower <;> simp only [cutShort, if_true, if_false,
      Bool.false_eq_true, hd, hw, held_setStatus _ _ _ hs]
  | some f => cases w <;> cases timePower <;> simp only [cutShort, if_true, if_false,
      Bool.false_eq_true, hd, hw, held_setStatus _ _ _ hs, hf f _ rfl]

/-- W stays if the instruction does not write it. -/
theorem cutShort_w (x : Written) (s : State) (h : x.w = false) : (cutShort x s).w = s.w := by
  have hd : ∀ f r, (writeDest f .f r s).w = s.w := fun f r =>
    (writeDest_stores f .f r s.pc s.draws s).w
  obtain ⟨w, file, flags, timePower⟩ := x
  subst h
  cases file with
  | none => cases timePower <;> rfl
  | some f => cases timePower <;> exact hd f _

/-- A flag stays if the instruction does not affect it and its destination is not STATUS. -/
theorem cutShort_flags (x : Written) (s : State) (h : ∀ f, x.file = some f → target f s ≠ .status) :
    (x.flags.z = none → (cutShort x s).status.getLsbD 2 = s.status.getLsbD 2) ∧
      (x.flags.dc = none → (cutShort x s).status.getLsbD 1 = s.status.getLsbD 1) ∧
      (x.flags.c = none → (cutShort x s).status.getLsbD 0 = s.status.getLsbD 0) := by
  have ht : ∀ (a b : Bool) (v : Byte) (i : Nat), i < 3 →
      (statusTimePower a b v).getLsbD i = v.getLsbD i := fun a b v i hi => by
    rw [statusTimePower_eq, join_getLsbD]
    interval_cases i <;> simp
  have hf : ∀ f r, target f s ≠ .status →
      (writeDest f .f r s).status = r.flags.apply s.status := fun f r hn => by
    simp [writeDest, hn, writeReg_status]
  obtain ⟨w, file, flags, timePower⟩ := x
  cases file with
  | none =>
    cases w <;> cases timePower <;> refine ⟨fun e => ?_, fun e => ?_, fun e => ?_⟩ <;>
      dsimp only at e <;>
      simp only [cutShort, if_true, if_false, Bool.false_eq_true, setDraws_status, setW_status,
        setStatus_status, ht _ _ _ 2 (by decide), ht _ _ _ 1 (by decide), ht _ _ _ 0 (by decide),
        apply_z, apply_dc, apply_c, e, unknownFlag, Option.map_none, Option.getD_none]
  | some f =>
    cases w <;> cases timePower <;> refine ⟨fun e => ?_, fun e => ?_, fun e => ?_⟩ <;>
      dsimp only at e <;>
      simp only [cutShort, if_true, if_false, Bool.false_eq_true, setDraws_status, setW_status,
        setStatus_status, hf f _ (h f rfl), ht _ _ _ 2 (by decide), ht _ _ _ 1 (by decide),
        ht _ _ _ 0 (by decide), apply_z, apply_dc, apply_c, e, unknownFlag, Option.map_none,
        Option.getD_none]

/-! ## A quiet environment -/

/-- ENV's quiet input only uses itself up. -/
theorem driven_quiet {s : State} (h : s.input = EnvInput.quiet) :
    s.driven = s.setEnv s.env.tail := by
  simp [State.driven, h, EnvInput.quiet, State.setEnv]

/-- A quiet input sets no flag. -/
theorem raiseFlags_quiet (b : Bool) (s : State) : raiseFlags EnvInput.quiet b s = s := by
  have hi : s.intcon.extractLsb' 3 5 ++ BitVec.ofBool (s.intcon.getLsbD 2) ++
      BitVec.ofBool (s.intcon.getLsbD 1) ++ BitVec.ofBool (s.intcon.getLsbD 0) = s.intcon := by
    apply BitVec.eq_of_getLsbD_eq
    intro i hi
    refine (getLsbD_concat _ _ i).trans ?_
    rw [getLsbD_concat, getLsbD_concat, BitVec.getLsbD_extractLsb']
    interval_cases i <;> simp
  have he : BitVec.ofBool s.eeif ++ s.eecon1.extractLsb' 0 4 = s.eecon1 := by
    apply BitVec.eq_of_getLsbD_eq
    intro i hi
    refine (getLsbD_concat _ _ i).trans ?_
    rw [BitVec.getLsbD_extractLsb']
    interval_cases i <;> simp [State.eeif]
  simp only [raiseFlags, EnvInput.quiet, Bool.false_and, Bool.or_false, hi, he]

/-- A quiet boundary is undisturbed, and ENV's used-up input is all that changes at it. -/
theorem raised_quiet {s : State} (hq : s.EnvQuiet) :
    s.Undisturbed ∧ s.raised = s.setEnv s.env.tail := by
  have hi : s.input = EnvInput.quiet := hq
  refine ⟨⟨by rw [hi]; rfl, by simp [State.timesOut, hi, EnvInput.quiet]⟩, ?_⟩
  rw [State.raised, driven_quiet hi, hi, raiseFlags_quiet]

/-- The boundary with no reset and no effective time-out: SLEEP ends or goes on, interrupt entry happens,
or the instruction runs. -/
theorem boundary_undisturbed {s : State} (h : s.Undisturbed) :
    boundary s =
      if s.sleeping then .settled (if s.raised.interruptRequest then s.raised.wake else s.raised)
      else if s.raised.entersInterrupt then .entering s.raised
      else .running (s.raised.setResuming false) := by
  unfold boundary sleepBoundary awakeBoundary State.raised
  cases hs : s.sleeping <;> simp [h.1, h.2]

/-- The boundary with ENV quiet: SLEEP ends or goes on, interrupt entry happens, or the instruction
runs. -/
theorem boundary_quiet {s : State} (hq : s.input = EnvInput.quiet) :
    boundary s =
      if s.sleeping then
        .settled (if s.interruptRequest then (s.setEnv s.env.tail).wake else s.setEnv s.env.tail)
      else if s.entersInterrupt then .entering (s.setEnv s.env.tail)
      else .running ((s.setEnv s.env.tail).setResuming false) := by
  obtain ⟨hu, hr⟩ := raised_quiet hq
  rw [boundary_undisturbed hu, hr]
  rfl

/-- The boundary while executing, ENV quiet, no interrupt entry due: the instruction runs. -/
theorem boundary_quiet_awake {s : State} (hq : s.input = EnvInput.quiet) (ha : s.sleeping = false)
    (hi : s.entersInterrupt = false) :
    boundary s = .running ((s.setEnv s.env.tail).setResuming false) := by
  simp [boundary_quiet hq, ha, hi]

/-- The boundary in SLEEP, ENV quiet, no enabled source requesting: nothing happens. -/
theorem boundary_quiet_asleep {s : State} (hq : s.input = EnvInput.quiet) (ha : s.sleeping = true)
    (hi : s.interruptRequest = false) : boundary s = .settled (s.setEnv s.env.tail) := by
  simp [boundary_quiet hq, ha, hi]

end Sys2Proof.Machine
end

