-- ==== Sys2Proof/Laws/DefaultProfile.lean ====
section
/-! SUPPORT. When the default profile refuses, and what its step is. -/

namespace Sys2Proof.Machine

theorem pushRefusal_cases (k : Stack) :
    (k.live < Config.stackDepth ∧ k.pushRefusal = none) ∨
      (Config.stackDepth ≤ k.live ∧ k.pushRefusal = some .stackOverflow) := by
  by_cases h : k.live < Config.stackDepth
  · exact .inl ⟨h, if_pos h⟩
  · exact .inr ⟨Nat.le_of_not_lt h, if_neg h⟩

theorem popRefusal_cases (k : Stack) :
    (0 < k.live ∧ k.popRefusal = none) ∨
      (k.live = 0 ∧ k.popRefusal = some .stackUnderflow) := by
  by_cases h : 0 < k.live
  · exact .inl ⟨h, if_pos h⟩
  · exact .inr ⟨by omega, if_neg h⟩

/-- Everything a step of the default profile that answers a next state is: a step of the machine that the
profile does not refuse. -/
theorem defaultStep_next {s t : State} (h : defaultStep s = .next t) :
    s.defaultRefusal = none ∧ step s = .next t := by
  unfold defaultStep at h
  split at h
  · cases h
  · refine ⟨‹_›, ?_⟩
    revert h
    cases step s <;> intro h <;> cases h
    rfl

/-- What the profile refuses, its step refuses. -/
theorem defaultStep_refused {s : State} {r : DefaultRefusal} (h : s.defaultRefusal = some r) :
    defaultStep s = .refused r := by
  simp [defaultStep, h]

theorem defaultRefusal_settled {s t : State} (h : boundary s = .settled t) :
    s.defaultRefusal = none := by
  simp [State.defaultRefusal, h]

theorem defaultRefusal_entering {s t : State} (h : boundary s = .entering t) :
    s.defaultRefusal = t.stack.pushRefusal := by
  simp [State.defaultRefusal, h]

theorem defaultRefusal_running {s t : State} {i : Instr} (h : boundary s = .running t)
    (hf : fetch t = .ok i) : s.defaultRefusal = refusedByDefault i t := by
  simp [State.defaultRefusal, h, hf]

/-- An instruction the profile executes keeps within the stack. -/
theorem stackSafe_of_not_refused {i : Instr} {s : State} (h : refusedByDefault i s = none) :
    stackSafe i s := by
  cases i with
  | call k =>
    rcases pushRefusal_cases s.stack with ⟨hl, -⟩ | ⟨-, hr⟩
    · exact hl
    · exact absurd (hr.symm.trans h) (by simp)
  | ret | retlw _ | retfie =>
    rcases popRefusal_cases s.stack with ⟨hl, -⟩ | ⟨-, hr⟩
    · exact hl
    · exact absurd (hr.symm.trans h) (by simp)
  | _ => trivial

end Sys2Proof.Machine
end

