-- ==== Sys2Proof/Laws/PerInstr.lean ====
section
/-! SUPPORT. The per-instruction family WellFormed: every operand an `Instr` can hold is in the range of
its field (30_encoding.md R73). -/

namespace Sys2Proof.Laws

/-- Every operand of the instruction is in its range. -/
def WellFormed.Statement (i : Instr) : Prop := i.wellFormed = true

theorem file_ok (f : FileAddr) : OperandField.file.accepts f.toNat = true := by
  have := f.isLt
  simp only [OperandField.accepts, decide_eq_true_eq]
  omega

theorem dest_ok (d : Dest) : OperandField.dest.accepts d.number = true := by
  cases d <;> rfl

theorem bit_ok (b : BitVec 3) : OperandField.bit.accepts b.toNat = true := by
  have := b.isLt
  simp only [OperandField.accepts, decide_eq_true_eq]
  omega

theorem literal8_ok (k : Byte) : OperandField.literal8.accepts k.toNat = true := by
  have := k.isLt
  simp only [OperandField.accepts, decide_eq_true_eq]
  omega

theorem literal11_ok (k : BitVec 11) : OperandField.literal11.accepts k.toNat = true := by
  have := k.isLt
  simp only [OperandField.accepts, decide_eq_true_eq]
  omega

theorem operandsOk_nil : operandsOk [] = true := rfl

theorem operandsOk_one {a : OperandField × Nat} (h : a.1.accepts a.2 = true) :
    operandsOk [a] = true := by
  simp [operandsOk, h]

theorem operandsOk_two {a b : OperandField × Nat} (h : a.1.accepts a.2 = true)
    (h' : b.1.accepts b.2 = true) : operandsOk [a, b] = true := by
  simp [operandsOk, h, h']

theorem WellFormed.addwf (f : FileAddr) (d : Dest) : WellFormed.Statement (.addwf f d) := operandsOk_two (file_ok f) (dest_ok d)
theorem WellFormed.andwf (f : FileAddr) (d : Dest) : WellFormed.Statement (.andwf f d) := operandsOk_two (file_ok f) (dest_ok d)
theorem WellFormed.clrf (f : FileAddr) : WellFormed.Statement (.clrf f) := operandsOk_one (file_ok f)
theorem WellFormed.clrw : WellFormed.Statement .clrw := operandsOk_nil
theorem WellFormed.comf (f : FileAddr) (d : Dest) : WellFormed.Statement (.comf f d) := operandsOk_two (file_ok f) (dest_ok d)
theorem WellFormed.decf (f : FileAddr) (d : Dest) : WellFormed.Statement (.decf f d) := operandsOk_two (file_ok f) (dest_ok d)
theorem WellFormed.decfsz (f : FileAddr) (d : Dest) : WellFormed.Statement (.decfsz f d) := operandsOk_two (file_ok f) (dest_ok d)
theorem WellFormed.incf (f : FileAddr) (d : Dest) : WellFormed.Statement (.incf f d) := operandsOk_two (file_ok f) (dest_ok d)
theorem WellFormed.incfsz (f : FileAddr) (d : Dest) : WellFormed.Statement (.incfsz f d) := operandsOk_two (file_ok f) (dest_ok d)
theorem WellFormed.iorwf (f : FileAddr) (d : Dest) : WellFormed.Statement (.iorwf f d) := operandsOk_two (file_ok f) (dest_ok d)
theorem WellFormed.movf (f : FileAddr) (d : Dest) : WellFormed.Statement (.movf f d) := operandsOk_two (file_ok f) (dest_ok d)
theorem WellFormed.movwf (f : FileAddr) : WellFormed.Statement (.movwf f) := operandsOk_one (file_ok f)
theorem WellFormed.nop : WellFormed.Statement .nop := operandsOk_nil
theorem WellFormed.rlf (f : FileAddr) (d : Dest) : WellFormed.Statement (.rlf f d) := operandsOk_two (file_ok f) (dest_ok d)
theorem WellFormed.rrf (f : FileAddr) (d : Dest) : WellFormed.Statement (.rrf f d) := operandsOk_two (file_ok f) (dest_ok d)
theorem WellFormed.subwf (f : FileAddr) (d : Dest) : WellFormed.Statement (.subwf f d) := operandsOk_two (file_ok f) (dest_ok d)
theorem WellFormed.swapf (f : FileAddr) (d : Dest) : WellFormed.Statement (.swapf f d) := operandsOk_two (file_ok f) (dest_ok d)
theorem WellFormed.xorwf (f : FileAddr) (d : Dest) : WellFormed.Statement (.xorwf f d) := operandsOk_two (file_ok f) (dest_ok d)
theorem WellFormed.bcf (f : FileAddr) (b : BitVec 3) : WellFormed.Statement (.bcf f b) := operandsOk_two (file_ok f) (bit_ok b)
theorem WellFormed.bsf (f : FileAddr) (b : BitVec 3) : WellFormed.Statement (.bsf f b) := operandsOk_two (file_ok f) (bit_ok b)
theorem WellFormed.btfsc (f : FileAddr) (b : BitVec 3) : WellFormed.Statement (.btfsc f b) := operandsOk_two (file_ok f) (bit_ok b)
theorem WellFormed.btfss (f : FileAddr) (b : BitVec 3) : WellFormed.Statement (.btfss f b) := operandsOk_two (file_ok f) (bit_ok b)
theorem WellFormed.addlw (k : Byte) : WellFormed.Statement (.addlw k) := operandsOk_one (literal8_ok k)
theorem WellFormed.andlw (k : Byte) : WellFormed.Statement (.andlw k) := operandsOk_one (literal8_ok k)
theorem WellFormed.call (k : BitVec 11) : WellFormed.Statement (.call k) := operandsOk_one (literal11_ok k)
theorem WellFormed.clrwdt : WellFormed.Statement .clrwdt := operandsOk_nil
theorem WellFormed.goto (k : BitVec 11) : WellFormed.Statement (.goto k) := operandsOk_one (literal11_ok k)
theorem WellFormed.iorlw (k : Byte) : WellFormed.Statement (.iorlw k) := operandsOk_one (literal8_ok k)
theorem WellFormed.movlw (k : Byte) : WellFormed.Statement (.movlw k) := operandsOk_one (literal8_ok k)
theorem WellFormed.retfie : WellFormed.Statement .retfie := operandsOk_nil
theorem WellFormed.retlw (k : Byte) : WellFormed.Statement (.retlw k) := operandsOk_one (literal8_ok k)
theorem WellFormed.ret : WellFormed.Statement .ret := operandsOk_nil
theorem WellFormed.sleep : WellFormed.Statement .sleep := operandsOk_nil
theorem WellFormed.sublw (k : Byte) : WellFormed.Statement (.sublw k) := operandsOk_one (literal8_ok k)
theorem WellFormed.xorlw (k : Byte) : WellFormed.Statement (.xorlw k) := operandsOk_one (literal8_ok k)
theorem WellFormed.option : WellFormed.Statement .option := operandsOk_nil
theorem WellFormed.trisA : WellFormed.Statement .trisA := rfl
theorem WellFormed.trisB : WellFormed.Statement .trisB := rfl

end Sys2Proof.Laws
end

