-- ==== Sys2Proof/Tests/Slice0.lean ====
section
/-! SUPPORT. Tests of one step each, and for every obligation with hypotheses a state that meets them.
Sources: spec/95_test_vectors.md for the vectors, 30_encoding.md R61 to R70 for the words, the examples
of the instruction rules for the rest. -/

namespace Sys2Proof.Tests

open Sys2Proof Sys2Proof.Machine

/-! ## Well-formedness: each check refuses a number outside its range (R73) -/

theorem test_file_128_refused : operandsOk [(.file, 128), (.dest, 1)] = false := by decide
theorem test_dest_2_refused : operandsOk [(.file, 127), (.dest, 2)] = false := by decide
theorem test_bit_8_refused : operandsOk [(.file, 127), (.bit, 8)] = false := by decide
theorem test_literal8_256_refused : operandsOk [(.literal8, 256)] = false := by decide
theorem test_literal11_2048_refused : operandsOk [(.literal11, 2048)] = false := by decide
theorem test_tris_7_refused : operandsOk [(.trisFile, 7)] = false := by decide
theorem test_largest_operands_pass :
    operandsOk [(.file, 127), (.dest, 1), (.bit, 7), (.literal8, 255), (.literal11, 2047),
      (.trisFile, 6)] = true := by decide

/-! ## Decoding: words written out from the encodings of R67 and R70 -/

theorem test_decode_addwf : decode 0b00_0111_1_0100000 = .ok (.addwf 0x20 .f) := by decide
theorem test_decode_andwf : decode 0b00_0101_0_0100001 = .ok (.andwf 0x21 .w) := by decide
theorem test_decode_clrf : decode 0b00_0001_1_1111111 = .ok (.clrf 0x7F) := by decide
theorem test_decode_clrw : decode 0b00_0001_0_0000000 = .ok .clrw := by decide
theorem test_decode_comf : decode 0b00_1001_0_0010011 = .ok (.comf 0x13 .w) := by decide
theorem test_decode_decf : decode 0b00_0011_1_0000101 = .ok (.decf 0x05 .f) := by decide
theorem test_decode_decfsz : decode 0b00_1011_1_0100000 = .ok (.decfsz 0x20 .f) := by decide
theorem test_decode_incf : decode 0b00_1010_0_1000000 = .ok (.incf 0x40 .w) := by decide
theorem test_decode_incfsz : decode 0b00_1111_1_0001100 = .ok (.incfsz 0x0C .f) := by decide
theorem test_decode_iorwf : decode 0b00_0100_0_0010011 = .ok (.iorwf 0x13 .w) := by decide
theorem test_decode_movf : decode 0b00_1000_1_0000110 = .ok (.movf 0x06 .f) := by decide
theorem test_decode_movwf : decode 0b00_0000_1_0000001 = .ok (.movwf 0x01) := by decide
theorem test_decode_nop : decode 0b00_0000_0_0000000 = .ok .nop := by decide
theorem test_decode_rlf : decode 0b00_1101_1_0100110 = .ok (.rlf 0x26 .f) := by decide
theorem test_decode_rrf : decode 0b00_1100_0_0100110 = .ok (.rrf 0x26 .w) := by decide
theorem test_decode_subwf : decode 0b00_0010_1_1001111 = .ok (.subwf 0x4F .f) := by decide
theorem test_decode_swapf : decode 0b00_1110_0_0000011 = .ok (.swapf 0x03 .w) := by decide
theorem test_decode_xorwf : decode 0b00_0110_1_0101010 = .ok (.xorwf 0x2A .f) := by decide
theorem test_decode_bcf : decode 0b01_00_101_0000011 = .ok (.bcf 0x03 5) := by decide
theorem test_decode_bsf : decode 0b01_01_001_0000110 = .ok (.bsf 0x06 1) := by decide
theorem test_decode_btfsc : decode 0b01_10_010_0000011 = .ok (.btfsc 0x03 2) := by decide
theorem test_decode_btfss : decode 0b01_11_111_0100000 = .ok (.btfss 0x20 7) := by decide
theorem test_decode_addlw : decode 0b11_1110_00010101 = .ok (.addlw 0x15) := by decide
theorem test_decode_andlw : decode 0b11_1001_01011111 = .ok (.andlw 0x5F) := by decide
theorem test_decode_call : decode 0b10_0_00100100011 = .ok (.call 0x123) := by decide
theorem test_decode_clrwdt : decode 0b00_0000_0110_0100 = .ok .clrwdt := by decide
theorem test_decode_goto : decode 0b10_1_01111111111 = .ok (.goto 0x3FF) := by decide
theorem test_decode_iorlw : decode 0b11_1000_00110101 = .ok (.iorlw 0x35) := by decide
theorem test_decode_movlw : decode 0b11_0000_01011010 = .ok (.movlw 0x5A) := by decide
theorem test_decode_retfie : decode 0b00_0000_0000_1001 = .ok .retfie := by decide
theorem test_decode_retlw : decode 0b11_0100_01111110 = .ok (.retlw 0x7E) := by decide
theorem test_decode_ret : decode 0b00_0000_0000_1000 = .ok .ret := by decide
theorem test_decode_sleep : decode 0b00_0000_0110_0011 = .ok .sleep := by decide
theorem test_decode_sublw : decode 0b11_1100_00000010 = .ok (.sublw 0x02) := by decide
theorem test_decode_xorlw : decode 0b11_1010_10101111 = .ok (.xorlw 0xAF) := by decide
theorem test_decode_option : decode 0b00_0000_0110_0010 = .ok .option := by decide
theorem test_decode_trisA : decode 0b00_0000_0110_0101 = .ok .trisA := by decide
theorem test_decode_trisB : decode 0b00_0000_0110_0110 = .ok .trisB := by decide

/-- R68: words with don't-care bits set. -/
theorem test_decode_dont_care :
    decode 0x0060 = .ok .nop ∧ decode 0x017F = .ok .clrw ∧ decode 0x335A = .ok (.movlw 0x5A) ∧
      decode 0x377E = .ok (.retlw 0x7E) ∧ decode 0x3FFF = .ok (.addlw 0xFF) ∧
      decode 0x3D02 = .ok (.sublw 0x02) := by decide

/-- R69: words of the list of unassigned words, at the ends of its ranges. -/
theorem test_decode_unassigned :
    decode 0x0001 = .error (.unassigned 0x0001) ∧ decode 0x0007 = .error (.unassigned 0x0007) ∧
      decode 0x000A = .error (.unassigned 0x000A) ∧ decode 0x0061 = .error (.unassigned 0x0061) ∧
      decode 0x0067 = .error (.unassigned 0x0067) ∧ decode 0x007F = .error (.unassigned 0x007F) ∧
      decode 0x3B00 = .error (.unassigned 0x3B00) ∧ decode 0x3BFF = .error (.unassigned 0x3BFF) := by
  decide

theorem test_table_word : decodeTableWord 16 0x07A0 = some (.addwf 0x20 .f) ∧
    decodeTableWord 16 0x4000 = none ∧ decodeTableWord 16 0x0061 = none := by decide

/-! ## One step: the vectors of spec/95_test_vectors.md -/

/-- The state of the vectors: the instruction stands at 0x010, `f` is the register 0x20. -/
def bench (w f st : Byte) : State :=
  { State.reset with pc := 0x010, w := w, status := st, gpr := Memory.write [] 0x20 f }

/-- What the vectors show of an outcome: W, the register 0x20, STATUS, pc. -/
def seen : Host.Outcome State Fault Refusal → Option (Byte × Byte × Byte × ProgAddr)
  | .next t => some (t.w, Memory.read t.gpr 0x20, t.status, t.pc)
  | _ => none

/-- The program counter and the live entries of the stack. -/
def flow : Host.Outcome State Fault Refusal → Option (ProgAddr × List ProgAddr)
  | .next t => some (t.pc, t.stack.entries)
  | _ => none

theorem test_addwf_wraps : seen (exec (.addwf 0x20 .f) (bench 0x01 0xFF 0b00011000)) =
    some (0x01, 0x00, 0b00011111, 0x011) := by decide
theorem test_subwf_digit_borrow : seen (exec (.subwf 0x20 .w) (bench 0x01 0x10 0b00011000)) =
    some (0x0F, 0x10, 0b00011001, 0x011) := by decide
theorem test_subwf_borrow : seen (exec (.subwf 0x20 .f) (bench 0x80 0x7F 0b00011000)) =
    some (0x80, 0xFF, 0b00011010, 0x011) := by decide
theorem test_andwf_zero : seen (exec (.andwf 0x20 .w) (bench 0xF0 0x0F 0b00011000)) =
    some (0x00, 0x0F, 0b00011100, 0x011) := by decide
theorem test_andwf_to_f : seen (exec (.andwf 0x20 .f) (bench 0x17 0xC2 0b00011000)) =
    some (0x17, 0x02, 0b00011000, 0x011) := by decide
theorem test_iorwf_to_f : seen (exec (.iorwf 0x20 .f) (bench 0x91 0x13 0b00011000)) =
    some (0x91, 0x93, 0b00011000, 0x011) := by decide
theorem test_iorwf_zero : seen (exec (.iorwf 0x20 .w) (bench 0x00 0x00 0b00011000)) =
    some (0x00, 0x00, 0b00011100, 0x011) := by decide
theorem test_xorwf_to_f : seen (exec (.xorwf 0x20 .f) (bench 0xB5 0xAF 0b00011000)) =
    some (0xB5, 0x1A, 0b00011000, 0x011) := by decide
theorem test_xorwf_zero : seen (exec (.xorwf 0x20 .w) (bench 0x3C 0x3C 0b00011000)) =
    some (0x00, 0x3C, 0b00011100, 0x011) := by decide
theorem test_clrf : seen (exec (.clrf 0x20) (bench 0x00 0x5A 0b00011000)) =
    some (0x00, 0x00, 0b00011100, 0x011) := by decide
theorem test_clrw : seen (exec .clrw (bench 0x5A 0x00 0b00011000)) =
    some (0x00, 0x00, 0b00011100, 0x011) := by decide
theorem test_comf_to_w : seen (exec (.comf 0x20 .w) (bench 0x99 0x13 0b00011000)) =
    some (0xEC, 0x13, 0b00011000, 0x011) := by decide
theorem test_comf_zero : seen (exec (.comf 0x20 .f) (bench 0x00 0xFF 0b00011000)) =
    some (0x00, 0x00, 0b00011100, 0x011) := by decide
theorem test_decf_wraps : seen (exec (.decf 0x20 .f) (bench 0x00 0x00 0b00011001)) =
    some (0x00, 0xFF, 0b00011001, 0x011) := by decide
theorem test_decf_to_w : seen (exec (.decf 0x20 .w) (bench 0x99 0x80 0b00011000)) =
    some (0x7F, 0x80, 0b00011000, 0x011) := by decide
theorem test_decfsz_skips : seen (exec (.decfsz 0x20 .f) (bench 0x00 0x01 0b00011000)) =
    some (0x00, 0x00, 0b00011000, 0x012) := by decide
theorem test_decfsz_wraps_without_skip : seen (exec (.decfsz 0x20 .f) (bench 0x00 0x00 0b00011000)) =
    some (0x00, 0xFF, 0b00011000, 0x011) := by decide
theorem test_incf_wraps_keeps_carry : seen (exec (.incf 0x20 .f) (bench 0x00 0xFF 0b00011001)) =
    some (0x00, 0x00, 0b00011101, 0x011) := by decide
theorem test_incf_to_w : seen (exec (.incf 0x20 .w) (bench 0x99 0x7F 0b00011000)) =
    some (0x80, 0x7F, 0b00011000, 0x011) := by decide
theorem test_incfsz_does_not_skip : seen (exec (.incfsz 0x20 .f) (bench 0x00 0x00 0b00011000)) =
    some (0x00, 0x01, 0b00011000, 0x011) := by decide
theorem test_incfsz_skips_to_w : seen (exec (.incfsz 0x20 .w) (bench 0x99 0xFF 0b00011000)) =
    some (0x00, 0xFF, 0b00011000, 0x012) := by decide
theorem test_movf_zero : seen (exec (.movf 0x20 .w) (bench 0x55 0x00 0b00011000)) =
    some (0x00, 0x00, 0b00011100, 0x011) := by decide
theorem test_movf_clears_z : seen (exec (.movf 0x20 .f) (bench 0x55 0x80 0b00011100)) =
    some (0x55, 0x80, 0b00011000, 0x011) := by decide
theorem test_movwf : seen (exec (.movwf 0x20) (bench 0x4F 0xFF 0b00011000)) =
    some (0x4F, 0x4F, 0b00011000, 0x011) := by decide
theorem test_nop : seen (exec .nop (bench 0x12 0x34 0b00011111)) =
    some (0x12, 0x34, 0b00011111, 0x011) := by decide
theorem test_rlf : seen (exec (.rlf 0x20 .f) (bench 0x00 0xE6 0b00011000)) =
    some (0x00, 0xCC, 0b00011001, 0x011) := by decide
theorem test_rlf_takes_carry_in : seen (exec (.rlf 0x20 .w) (bench 0x99 0x80 0b00011001)) =
    some (0x01, 0x80, 0b00011001, 0x011) := by decide
theorem test_rrf : seen (exec (.rrf 0x20 .w) (bench 0x99 0xE6 0b00011000)) =
    some (0x73, 0xE6, 0b00011000, 0x011) := by decide
theorem test_rrf_takes_carry_in : seen (exec (.rrf 0x20 .f) (bench 0x00 0x01 0b00011001)) =
    some (0x00, 0x80, 0b00011001, 0x011) := by decide
theorem test_swapf : seen (exec (.swapf 0x20 .f) (bench 0x00 0xA5 0b00011000)) =
    some (0x00, 0x5A, 0b00011000, 0x011) := by decide
theorem test_swapf_keeps_flags : seen (exec (.swapf 0x20 .w) (bench 0x99 0x0F 0b00011100)) =
    some (0xF0, 0x0F, 0b00011100, 0x011) := by decide
theorem test_bcf_high_bit : seen (exec (.bcf 0x20 7) (bench 0x00 0xC7 0b00011000)) =
    some (0x00, 0x47, 0b00011000, 0x011) := by decide
theorem test_bcf_low_bit : seen (exec (.bcf 0x20 0) (bench 0x00 0xFF 0b00011000)) =
    some (0x00, 0xFE, 0b00011000, 0x011) := by decide
theorem test_bsf_high_bit : seen (exec (.bsf 0x20 7) (bench 0x00 0x0A 0b00011000)) =
    some (0x00, 0x8A, 0b00011000, 0x011) := by decide
theorem test_bsf_low_bit : seen (exec (.bsf 0x20 0) (bench 0x00 0x00 0b00011000)) =
    some (0x00, 0x01, 0b00011000, 0x011) := by decide
theorem test_btfsc_set_runs : seen (exec (.btfsc 0x20 1) (bench 0x00 0x02 0b00011000)) =
    some (0x00, 0x02, 0b00011000, 0x011) := by decide
theorem test_btfsc_clear_skips : seen (exec (.btfsc 0x20 7) (bench 0x00 0x7F 0b00011000)) =
    some (0x00, 0x7F, 0b00011000, 0x012) := by decide
theorem test_btfss_set_skips : seen (exec (.btfss 0x20 7) (bench 0x00 0x80 0b00011000)) =
    some (0x00, 0x80, 0b00011000, 0x012) := by decide
theorem test_btfss_clear_runs : seen (exec (.btfss 0x20 7) (bench 0x00 0x7F 0b00011000)) =
    some (0x00, 0x7F, 0b00011000, 0x011) := by decide
theorem test_addlw_wraps : seen (exec (.addlw 0xFF) (bench 0x01 0x00 0b00011000)) =
    some (0x00, 0x00, 0b00011111, 0x011) := by decide
theorem test_addlw : seen (exec (.addlw 0x15) (bench 0x10 0x00 0b00011000)) =
    some (0x25, 0x00, 0b00011000, 0x011) := by decide
theorem test_sublw_digit_borrow : seen (exec (.sublw 0x10) (bench 0x01 0x00 0b00011000)) =
    some (0x0F, 0x00, 0b00011001, 0x011) := by decide
theorem test_sublw_borrow : seen (exec (.sublw 0x02) (bench 0x03 0x00 0b00011000)) =
    some (0xFF, 0x00, 0b00011000, 0x011) := by decide
theorem test_andlw_zero : seen (exec (.andlw 0x0F) (bench 0xF0 0x00 0b00011000)) =
    some (0x00, 0x00, 0b00011100, 0x011) := by decide
theorem test_iorlw : seen (exec (.iorlw 0x35) (bench 0x9A 0x00 0b00011000)) =
    some (0xBF, 0x00, 0b00011000, 0x011) := by decide
theorem test_xorlw : seen (exec (.xorlw 0xAF) (bench 0xB5 0x00 0b00011000)) =
    some (0x1A, 0x00, 0b00011000, 0x011) := by decide
theorem test_movlw_keeps_z : seen (exec (.movlw 0x00) (bench 0x77 0x00 0b00011000)) =
    some (0x00, 0x00, 0b00011000, 0x011) := by decide
theorem test_clrwdt : seen (exec .clrwdt (bench 0x00 0x00 0b00000101)) =
    some (0x00, 0x00, 0b00011101, 0x011) := by decide
theorem test_sleep : seen (exec .sleep (bench 0x00 0x00 0b00011000)) =
    some (0x00, 0x00, 0b00010000, 0x011) := by decide

/-- The stack with the entries of a list, its first on top. -/
def stacked (l : List ProgAddr) : Stack :=
  l.reverse.foldl (fun k v => k.push v) { slots := List.replicate 8 0, live := 0 }

theorem test_call_takes_page : flow (exec (.call 0x123) { bench 0 0 0x18 with pclath := 0x08 }) =
    some (0x923, [0x011]) := by decide
theorem test_call_wraps_return_address :
    flow (exec (.call 0x000) { bench 0 0 0x18 with pc := 0x1FFF }) = some (0x0000, [0x0000]) := by decide
theorem test_goto_takes_page : flow (exec (.goto 0x000) { bench 0 0 0x18 with pclath := 0x10 }) =
    some (0x1000, []) := by decide
theorem test_return : flow (exec .ret { bench 0 0 0x18 with stack := stacked [0x011, 0x200] }) =
    some (0x011, [0x200]) := by decide
theorem test_retlw : flow (exec (.retlw 0x7E) { bench 0 0 0x18 with stack := stacked [0x011] }) =
    some (0x011, []) ∧
    seen (exec (.retlw 0x7E) { bench 0 0 0x18 with stack := stacked [0x011] }) =
      some (0x7E, 0x00, 0x18, 0x011) := by decide
theorem test_retfie : flow (exec .retfie { bench 0 0 0x18 with stack := stacked [0x042] }) =
    some (0x042, []) := by decide

/-- A register of the next state. -/
def after {α : Type} (g : State → α) : Host.Outcome State Fault Refusal → Option α
  | .next t => some (g t)
  | _ => none

theorem test_retfie_sets_gie :
    after State.gie (exec .retfie { bench 0 0 0x18 with stack := stacked [0x042] }) = some true := by
  decide
theorem test_option : after State.optionReg (exec .option (bench 0x5A 0 0x18)) = some 0x5A := by decide
theorem test_tris_a : after State.trisA (exec .trisA (bench 0xF5 0 0x18)) = some 0x15 := by decide
theorem test_tris_b : after State.trisB (exec .trisB (bench 0xF5 0 0x18)) = some 0xF5 := by decide
theorem test_sleep_sleeps : after State.sleeping (exec .sleep (bench 0 0 0x18)) = some true := by decide

/-- R86: ADDWF to STATUS stores the bank bits of the sum and the flags of the addition. -/
theorem test_addwf_status :
    after State.status (exec (.addwf 0x03 .f) (bench 0x20 0 0b00011111)) = some 0b00111000 := by decide

/-- A write of TMR0 clears the prescaler assigned to Timer0 (10_state.md R28). -/
theorem test_tmr0_write_clears_prescaler :
    after State.prescaler
      (exec (.movwf 0x01) { bench 7 0 0x18 with prescaler := 9, optionReg := 0x07 }) = some 0 := by decide

/-! ## Witnesses: for each obligation with hypotheses a state and operands that meet them -/

theorem witness_CallPushesTheReturnAddress :
    (stacked [7, 6, 5, 4, 3, 2, 1]).live < 8 ∧ (stacked []).live < 8 := by decide

/-- `bench` with a stack. -/
def stackBench (l : List ProgAddr) : State := { bench 1 2 0x18 with stack := stacked l }

theorem witness_ReturnsPopTheStack :
    (stackBench [0x011]).Inv ∧ 0 < (stackBench [0x011]).stack.live := by
  unfold State.Inv; decide

theorem witness_RetfieReturnsAndSetsGie :
    (stackBench [8, 7, 6, 5, 4, 3, 2, 1]).Inv ∧
      0 < (stackBench [8, 7, 6, 5, 4, 3, 2, 1]).stack.live := by
  unfold State.Inv; decide

theorem witness_DirectAddressUsesRp0Only :
    (0xC7 : Byte).getLsbD 5 = State.reset.status.getLsbD 5 ∧ (0x7F : FileAddr) ≠ 0 := by decide

theorem witness_DataMapFollowsTheLocation :
    resolve 0x0C = .gpr 0x0C ∧ resolve 0xCF = .gpr 0x4F ∧ resolve 0x50 = .unimplemented ∧
      resolve 0xFF = .unimplemented ∧ resolve 0x0B = .intcon ∧ resolve 0x80 = .indf ∧
      resolve 0x03 = .status ∧ resolve 0x83 = .status := by decide

theorem witness_BanksShareGeneralPurposeBytes :
    (0x0C ≤ (0x0C : FileAddr).toNat ∧ (0x0C : FileAddr).toNat ≤ 0x4F) ∧
      (0x0C ≤ (0x4F : FileAddr).toNat ∧ (0x4F : FileAddr).toNat ≤ 0x4F) := by decide

theorem witness_UnimplementedReadsZeroIgnoresWrites :
    0x50 ≤ (0x50 : DataAddr).toNat % 128 ∧ ea 0x50 State.reset = 0x50 ∧
      (0x07 : DataAddr).toNat % 128 = 0x07 ∧ ea 0x07 State.reset = 0x07 ∧
      0x50 ≤ (0xFF : DataAddr).toNat % 128 ∧ ea 0 { State.reset with fsr := 0xFF } = 0xFF := by decide

theorem witness_IndfRedirectsThroughFsr :
    ((0x20 : FileAddr) ≠ 0 ∧ ea 0x20 { State.reset with fsr := 0x20 } = 0x20) ∧
      (0x80 : DataAddr).toNat % 128 = 0 := by decide

theorem witness_ClrfStatusLeavesToPdDcC :
    target 0x03 State.reset = .status ∧ target 0 { State.reset with fsr := 0x83 } = .status := by decide

/-- One witness for each register, direct or through FSR. -/
theorem witness_MovfReadsEachRegisterMovwfStatusLeavesToPd :
    target 0x03 { State.reset with status := 0x38 } = .status ∧
      (ea 0x02 State.reset).toNat % 128 = 0x02 ∧ (ea 0x03 State.reset).toNat % 128 = 0x03 ∧
      (ea 0 { State.reset with fsr := 0x84 }).toNat % 128 = 0x04 ∧
      (ea 0x0A State.reset).toNat % 128 = 0x0A ∧ (ea 0x0B State.reset).toNat % 128 = 0x0B ∧
      (ea 0x05 State.reset).toNat = 0x05 ∧ (ea 0x06 State.reset).toNat = 0x06 ∧
      (ea 0x01 { State.reset with status := 0x38 }).toNat = 0x81 ∧
      (ea 0x05 { State.reset with status := 0x38 }).toNat = 0x85 ∧
      (ea 0 { State.reset with fsr := 0x86 }).toNat = 0x86 ∧
      (ea 0x01 State.reset).toNat = 0x01 ∧ (ea 0x08 State.reset).toNat = 0x08 ∧
      (ea 0x09 State.reset).toNat = 0x09 ∧
      (ea 0x08 { State.reset with status := 0x38 }).toNat = 0x88 ∧
      (ea 0x09 { State.reset with status := 0x38 }).toNat = 0x89 ∧
      0x0C ≤ (ea 0x0C State.reset).toNat % 128 ∧ (ea 0x4F State.reset).toNat % 128 ≤ 0x4F := by decide

theorem witness_PortReadModifyWriteCopiesPins :
    target 0x06 State.reset = .portB ∧ target 0x05 State.reset = .portA := by decide

theorem witness_AddwfPclIsAComputedJump : target 0x02 State.reset = .pcl := by decide

/-- `bench` with an instruction word at 0x010. -/
def wordBench (iw : InstrWord) : State := { bench 1 2 0x18 with prog := Program.write [] 0x010 iw }

/-- The first clause with ENV quiet, and with a masked event and a pin change at the boundary; the program
clause on a listed word, read through the wrap at 1024, and on an unlisted one. -/
theorem witness_StepRunsTheDecodedInstruction :
    ((wordBench 0x07A0).sleeping = false ∧ (wordBench 0x07A0).EnvQuiet ∧
      (wordBench 0x07A0).raised.entersInterrupt = false ∧
      decode (progRead (wordBench 0x07A0).pc (wordBench 0x07A0)) = .ok (.addwf 0x20 .f) ∧
      (Instr.addwf 0x20 .f).wellFormed = true) ∧
      (State.Undisturbed { wordBench 0x07A0 with env := [{ intEdge := true, pinsB := some 0x55 }] } ∧
        (State.raised { wordBench 0x07A0 with
          env := [{ intEdge := true, pinsB := some 0x55 }] }).entersInterrupt = false) ∧
      Program.wf (wordBench 0x07A0).prog = true ∧
      ((0x410 : ProgAddr).toNat % 1024, 0x07A0) ∈ (wordBench 0x07A0).prog ∧
      (0x411 : ProgAddr).toNat % 1024 ∉ (wordBench 0x07A0).prog.map Prod.fst :=
  ⟨⟨rfl, rfl, by decide, by decide, by decide⟩, ⟨⟨rfl, rfl⟩, by decide⟩, by decide, by decide,
    by decide⟩

/-- A CALL with eight live entries. -/
def fullCallBench : State :=
  { wordBench 0x2000 with stack := stacked [8, 7, 6, 5, 4, 3, 2, 1] }

/-- An interrupt due with eight live entries. -/
def fullEntryBench : State :=
  { wordBench 0 with stack := stacked [8, 7, 6, 5, 4, 3, 2, 1], intcon := 0x92 }

theorem witness_OnlyUnassignedWordsAreRefused :
    ((∃ t, defaultStep (wordBench 0x2000) = .next t) ∧ (wordBench 0x2000).Inv) ∧
      (∃ r, step (wordBench 0x3B00) = .refused r) ∧
      (∃ u, boundary fullEntryBench = .entering u ∧ 8 ≤ u.stack.live) ∧
      (∃ u, boundary fullCallBench = .running u ∧ fetch u = .ok (.call 0) ∧ 8 ≤ u.stack.live) ∧
      (∃ u, boundary (wordBench 0x0008) = .running u ∧ fetch u = .ok .ret ∧ u.stack.live = 0) ∧
      (∃ u, boundary (wordBench 0x0065) = .running u ∧ fetch u = .ok .trisA) ∧
      (∃ u, boundary (wordBench 0x0802) = .running u ∧ fetch u = .ok (.movf 0x02 .w) ∧
        target 0x02 u = .pcl) :=
  ⟨⟨⟨_, rfl⟩, by unfold State.Inv; decide⟩, ⟨_, rfl⟩, ⟨_, rfl, by decide⟩, ⟨_, rfl, rfl, by decide⟩,
    ⟨_, rfl, rfl, rfl⟩, ⟨_, rfl, rfl⟩, ⟨_, rfl, rfl, rfl⟩⟩

/-- A CALL with seven live entries. -/
def lastCallBench : State :=
  { wordBench 0x2000 with stack := stacked [7, 6, 5, 4, 3, 2, 1] }

/-- The clause that the profile refuses nothing else. -/
theorem witness_OnlyUnassignedWordsAreRefused_else :
    (∃ t, step lastCallBench = .next t) ∧
      (∀ u, boundary lastCallBench = .entering u → u.stack.live < 8) ∧
      ∀ u i, boundary lastCallBench = .running u → fetch u = .ok i →
        stackSafe i u ∧ i ≠ .option ∧ i ≠ .trisA ∧ i ≠ .trisB ∧
          ∀ f, fileOperand i = some f → target f u ≠ .pcl := by
  obtain ⟨v, hb, hf, hv⟩ : ∃ v, boundary lastCallBench = .running v ∧ fetch v = .ok (.call 0) ∧
      v.stack.live < 8 := ⟨_, rfl, rfl, by decide⟩
  refine ⟨⟨_, rfl⟩, fun u h => (by rw [hb] at h; cases h), fun u i h hu => ?_⟩
  rw [hb] at h
  cases h
  rw [hf] at hu
  cases hu
  exact ⟨hv, by simp, by simp, by simp, by simp [fileOperand]⟩

theorem witness_EveryStepKeepsTheInvariant :
    (wordBench 0x0063).Inv ∧ ∃ t, step (wordBench 0x0063) = .next t :=
  ⟨by unfold State.Inv; decide, _, rfl⟩

theorem witness_ProgramMemoryAndConfigNeverChange : ∃ t, step State.reset = .next t := ⟨_, rfl⟩

theorem witness_ExecutionIgnoresProgramMemory : ∃ t, exec (.addwf 0x20 .f) (bench 1 2 0x18) = .next t :=
  ⟨_, rfl⟩

theorem witness_ToPdChangeOnlyByTheirEvents :
    after (fun t => t.status.extractLsb' 3 2) (step (wordBench 0x0063)) = some 0b10 ∧
      (wordBench 0x0063).status.extractLsb' 3 2 = 0b11#2 := by decide

/-- `bench` with an input of ENV at the coming boundary. -/
def inputBench (e : EnvInput) : State := { wordBench 0x07A0 with env := [e] }

theorem witness_ToPdChangeByTimeout :
    after (fun t => t.status.extractLsb' 3 2) (step (inputBench { wdtTimeout := true })) = some 0b01 := by
  decide

theorem witness_OnlySleepEntersSleep :
    after State.sleeping (step (wordBench 0x0063)) = some true ∧ (wordBench 0x0063).sleeping = false := by
  decide

theorem witness_AtMostTheOperandByteChanges :
    fileOperand (.movwf 0x21) = some 0x21 ∧ target 0x21 State.reset ≠ .gpr 0x20 := by decide

/-- A step that changes PCLATH: MOVWF 0x0A. -/
theorem witness_PclathChangesOnlyAsDestinationOrByReset :
    (writtenBy (.movwf 0x02)).file = some 0x02 ∧ target 0x02 State.reset ≠ .pclath ∧
      (writtenBy (.goto 0)).file = none ∧
      after State.pclath (step (wordBench 0x008A)) = some 1 ∧ (wordBench 0x008A).pclath = 0 := by decide

theorem witness_ChangedPcTakesTwoCycles :
    after State.pc (exec (.goto 0x100) (bench 0 0 0x18)) = some 0x100 ∧
      (bench 0 0 0x18).pc + 1 ≠ 0x100 ∧ cycles .nop (bench 0 0 0x18) = 1 := by decide

/-- The premises whatever `resuming` is, with and without a wake-up before. -/
theorem witness_GotoItselfIsAFixedPoint :
    (wordBench 0x2810).sleeping = false ∧ (wordBench 0x2810).env = [] ∧
      (wordBench 0x2810).entersInterrupt = false ∧ (wordBench 0x2810).resuming = false ∧
      State.entersInterrupt { wordBench 0x2810 with resuming := true } = false ∧
      State.takesInterrupt { wordBench 0x2810 with resuming := true } = false ∧
      decode (progRead (wordBench 0x2810).pc (wordBench 0x2810)) = .ok (.goto 0x010) ∧
      (wordBench 0x2810).pc.toNat =
        (wordBench 0x2810).pclath.toNat / 8 * 2048 + (0x010 : BitVec 11).toNat :=
  ⟨rfl, rfl, by decide, rfl, by decide, by decide, by decide, by decide⟩

/-- With ENV quiet, and with an interrupt edge and a pin change at the coming boundary. -/
theorem witness_ConservativeStepIsAnInstruction :
    State.Conservative { wordBench 0x07A0 with configWord := 0x3FFB } ∧
      State.Conservative { inputBench { intEdge := true, pinsB := some 0x55, wdtTimeout := true } with
        configWord := 0x3FFB } ∧
      decode (progRead 0x010 (wordBench 0x07A0)) = .ok (.addwf 0x20 .f) ∧
      target 0x20 (wordBench 0x07A0) ≠ .intcon := by
  unfold State.Conservative; decide

theorem witness_StackIsLastInFirstOut :
    ((stacked []).slots.length = 8 ∧ (stacked []).live < 8) ∧
      ((stacked [7, 6, 5, 4, 3, 2, 1]).slots.length = 8 ∧ (stacked [7, 6, 5, 4, 3, 2, 1]).live = 7) ∧
      ((stacked [8, 7, 6, 5, 4, 3, 2, 1]).slots.length = 8 ∧
        (stacked [8, 7, 6, 5, 4, 3, 2, 1]).live = 8) ∧
      ((stacked [1]).slots.length = 8 ∧ 0 < (stacked [1]).live) := by decide

theorem witness_ReturnUndoesCall :
    (stackBench [7, 6, 5, 4, 3, 2, 1]).Inv ∧ (stackBench [7, 6, 5, 4, 3, 2, 1]).stack.live < 8 := by
  unfold State.Inv; decide

theorem witness_RrfUndoesRlf : target 0x20 (bench 0 0xE6 0x19) = .gpr 0x20 := by decide

/-- `bench` with INTCON. -/
def intBench (intcon : Byte) (eecon1 : BitVec 5) : State :=
  { wordBench 0x0000 with intcon := intcon, eecon1 := eecon1 }

/-- One witness for each of the four interrupt sources with its flag standing, and one whose flag ENV sets
at the boundary. -/
theorem witness_InterruptEntryPushesPcClearsGie :
    ((intBench 0xA4 0).sleeping = false ∧ (intBench 0xA4 0).resuming = false ∧
      (intBench 0xA4 0).Undisturbed) ∧
      ((intBench 0xA4 0).raised.intcon.getLsbD 7 = true ∧
        (intBench 0xA4 0).raised.intcon.getLsbD 5 ∧ (intBench 0xA4 0).raised.intcon.getLsbD 2) ∧
      ((intBench 0x92 0).raised.intcon.getLsbD 4 ∧ (intBench 0x92 0).raised.intcon.getLsbD 1) ∧
      ((intBench 0x89 0).raised.intcon.getLsbD 3 ∧ (intBench 0x89 0).raised.intcon.getLsbD 0) ∧
      ((intBench 0xC0 0x10).raised.intcon.getLsbD 6 ∧
        (intBench 0xC0 0x10).raised.eecon1.getLsbD 4) ∧
      State.Undisturbed { intBench 0x90 0 with env := [{ intEdge := true }] } ∧
      (State.raised { intBench 0x90 0 with env := [{ intEdge := true }] }).intcon = 0x92 :=
  ⟨⟨rfl, rfl, rfl, rfl⟩, by decide, by decide, by decide, by decide, ⟨rfl, rfl⟩, by decide⟩

theorem witness_RetfieUndoesInterruptEntry :
    (intBench 0x92 0).Inv ∧ (intBench 0x92 0).stack.live < 8 ∧ (intBench 0x92 0).gie = true := by
  unfold State.Inv; decide

/-- Also with a masked event at the boundary. -/
theorem witness_SleepHoldsUntilAWakeEvent :
    State.Undisturbed { wordBench 0 with sleeping := true, env := [{ intEdge := true }] } ∧
      (State.raised { wordBench 0 with
        sleeping := true, env := [{ intEdge := true }] }).interruptRequest = false :=
  ⟨⟨rfl, rfl⟩, by decide⟩

/-- In SLEEP with INTE and INTF set and GIE clear. -/
def wakeBench : State := { intBench 0x12 0 with sleeping := true }

/-- With the flag standing, and with the flag set by ENV at the boundary. -/
theorem witness_InterruptWakesWhateverGieIs :
    (wakeBench.sleeping = true ∧ wakeBench.Undisturbed ∧ wakeBench.raised.interruptRequest = true ∧
      wakeBench.gie = false ∧ decode (progRead wakeBench.pc wakeBench) = .ok .nop ∧
      after State.env (step wakeBench) = some []) ∧
      State.Undisturbed { wakeBench with intcon := 0x10, env := [{ intEdge := true }] } ∧
      (State.raised { wakeBench with
        intcon := 0x10, env := [{ intEdge := true }] }).interruptRequest = true :=
  ⟨⟨rfl, ⟨rfl, rfl⟩, by decide, by decide, by decide, by decide⟩, ⟨rfl, rfl⟩, by decide⟩

/-- One witness for each clause. -/
theorem witness_WatchdogTimeoutResetsOrWakes :
    (inputBench { wdtTimeout := true }).input = { wdtTimeout := true } ∧
      State.configWord { inputBench { wdtTimeout := true } with configWord := 0x3FFB } = 0x3FFB ∧
      (0x3FFB : InstrWord).getLsbD 2 = false ∧
      (inputBench { wdtTimeout := true }).configWord.getLsbD 2 = true ∧
      (inputBench { wdtTimeout := true }).sleeping = false ∧
      State.sleeping { inputBench { wdtTimeout := true } with sleeping := true } = true ∧
      decode (progRead 0x010 (inputBench { wdtTimeout := true })) = .ok (.addwf 0x20 .f) ∧
      after State.env (step { inputBench { wdtTimeout := true } with sleeping := true }) = some [] := by
  decide

theorem witness_ExternalResetKeepsAndClears :
    (inputBench { reset := some .external }).input = { reset := some .external } := rfl

/-- MOVWF 0x20 cut short: it writes neither W nor FSR, nor the byte 0x21, and affects no flag. -/
theorem witness_CutInstructionHarmsItsDestinationsOnly :
    State.input { wordBench 0x00A0 with env := [{ reset := some .externalCut }] } =
        { reset := some .externalCut } ∧
      (wordBench 0x00A0).sleeping = false ∧
      decode (progRead 0x010 (wordBench 0x00A0)) = .ok (.movwf 0x20) ∧
      (writtenBy (.movwf 0x20)).file = some 0x20 ∧
      target 0x20 (wordBench 0x00A0) ≠ .gpr 0x21 ∧ target 0x20 (wordBench 0x00A0) ≠ .fsr ∧
      target 0x20 (wordBench 0x00A0) ≠ .status ∧ (writtenBy (.movwf 0x20)).w = false ∧
      (writtenBy (.movwf 0x20)).flags.z = none ∧ (writtenBy (.movwf 0x20)).flags.dc = none ∧
      (writtenBy (.movwf 0x20)).flags.c = none := by decide

theorem witness_PowerOnRestoresTheStatedValues :
    (inputBench { reset := some .powerOn }).input = { reset := some .powerOn } := rfl

/-- The three ends of a boundary: an instruction runs, interrupt entry, or the step is over. -/
theorem witness_EventsSetFlagsHardwareClearsNone :
    (∃ u, boundary (inputBench { intEdge := true }) = .running u) ∧
      (∃ u, boundary { inputBench { intEdge := true } with intcon := 0x90 } = .entering u) ∧
      (∃ u, boundary { inputBench { intEdge := true } with sleeping := true } = .settled u) ∧
      (inputBench { intEdge := true }).input.reset = none ∧
      (inputBench { intEdge := true }).input.wdtTimeout = false :=
  ⟨⟨_, rfl⟩, ⟨_, rfl⟩, ⟨_, rfl⟩, rfl, rfl⟩

theorem witness_DecodeOfEncodeIsTheInstruction :
    (Instr.bsf 0x03 5).wellFormed = true ∧ Instr.trisB.wellFormed = true := by decide

theorem witness_WordsDecodeByTheirOneRow :
    decode 0x0062 = .ok .option ∧ decode 0x07A0 = .ok (.addwf 0x20 .f) ∧
      (Instr.addwf 0 .w).row.matches 0x07A0 = true ∧ Instr.nop.row.matches 0x0060 = true := by decide

/-! ## Steps through a boundary (60_exceptions.md) -/

/-- R146, the trace P7 of spec/95_test_vectors.md: entry pushes 0x013 and clears GIE. -/
theorem test_interrupt_entry :
    flow (step { intBench 0x92 0 with pc := 0x013 }) = some (0x0004, [0x013]) ∧
      after State.intcon (step { intBench 0x92 0 with pc := 0x013 }) = some 0x12 := by decide

/-- R154: a watchdog time-out while executing is a reset, STATUS = 0000 1uuu. -/
theorem test_watchdog_reset :
    after (fun t => (t.pc, t.status)) (step { inputBench { wdtTimeout := true } with status := 0b10110101 }) =
      some (0x0000, 0b00001101) := by decide

/-- R173: external RESET in SLEEP leaves TO = 1, PD = 0. -/
theorem test_reset_in_sleep :
    after State.status (step { inputBench { reset := some .external } with
      sleeping := true, status := 0b00110011 }) = some 0b00010011 := by decide

/-- R161: the wake-up runs no instruction, and with GIE = 1 one instruction comes before entry. -/
theorem test_wake_then_instruction_then_entry :
    after (fun t => (t.pc, t.sleeping, t.resuming)) (step { wakeBench with intcon := 0x92 }) =
        some (0x010, false, true) ∧
      after (fun t => (t.pc, t.resuming))
        (step { wakeBench with intcon := 0x92, sleeping := false, resuming := true }) =
        some (0x011, false) ∧
      flow (step { wakeBench with intcon := 0x92, sleeping := false, pc := 0x011 }) =
        some (0x0004, [0x011]) := by decide

/-- R172: a reset between a wake-up and the instruction after SLEEP. -/
theorem test_reset_before_the_resumed_instruction :
    after (fun t => (t.pc, t.resuming, t.status))
      (step { inputBench { reset := some .external } with resuming := true, status := 0b00110011 }) =
      some (0x0000, false, 0b00010011) := by decide

/-- R163: the refusals of the default profile. -/
theorem test_default_profile_refuses :
    (wordBench 0x0062).defaultRefusal = some .optionOrTris ∧
      fullCallBench.defaultRefusal = some .stackOverflow ∧
      fullEntryBench.defaultRefusal = some .stackOverflow ∧
      (wordBench 0x0008).defaultRefusal = some .stackUnderflow ∧
      (wordBench 0x0782).defaultRefusal = some .pclAccess ∧
      (wordBench 0x07A0).defaultRefusal = none := by decide

/-- R40: a fetch at 0x0400 reads the word at 0x000. -/
theorem test_fetch_wraps :
    decode (progRead 0x0400 { State.reset with prog := Program.write [] 0 0x0063 }) = .ok .sleep := by decide

/-- The word stored for the next step is the one it runs. -/
theorem test_with_fetch_word :
    after State.w (step (State.reset.withFetchWord 16 0x305A)) = some 0x5A := by decide

/-- R69: the fetch of an unassigned word is refused. -/
theorem test_unassigned_refused : step (wordBench 0x3B00) = .refused (.unassignedWord 0x3B00) := rfl

end Sys2Proof.Tests
end

