-- ==== Sys2Proof/Proofs/StateRegisters.lean ====
section
/-! SUPPORT. STATUS and the program counter as numbers, the register at an effective address, and
what storing a result leaves (10_state.md R17, R18, R33; 20_memory.md R44, R46). -/

namespace Sys2Proof.Machine

/-! ## Bytes as numbers -/

/-- A concatenation as a number. -/
theorem toNat_concat {n m : Nat} (x : BitVec n) (y : BitVec m) :
    (x ++ y).toNat = x.toNat * 2 ^ m + y.toNat := by
  rw [BitVec.toNat_append, ← Nat.shiftLeft_add_eq_or_of_lt y.isLt, Nat.shiftLeft_eq]

/-- A field of a byte as a number. -/
theorem toNat_field {n : Nat} (x : BitVec n) (lo k : Nat) :
    (x.extractLsb' lo k).toNat = x.toNat / 2 ^ lo % 2 ^ k := by
  rw [BitVec.extractLsb'_toNat, Nat.shiftRight_eq_div_pow]

/-- A bit as a number. -/
theorem toNat_ofBool_getLsbD {n : Nat} (x : BitVec n) (i : Nat) :
    (BitVec.ofBool (x.getLsbD i)).toNat = x.toNat / 2 ^ i % 2 := by
  rw [BitVec.toNat_ofBool, BitVec.getLsbD, Nat.toNat_testBit]

/-- A STATUS byte joined of the bank bits, TO and PD, and the flags, as a number. -/
theorem join_toNat (b : BitVec 3) (t : BitVec 2) (f : BitVec 3) :
    BitVec.toNat (w := 8) (b ++ t ++ f) = b.toNat * 32 + t.toNat * 8 + f.toNat := by
  refine (toNat_concat (b ++ t) f).trans ?_
  rw [toNat_concat]
  omega

/-- A five-bit register keeps its number in the byte it reads as. -/
theorem toNat_setWidth_five (a : BitVec 5) : (a.setWidth 8).toNat = a.toNat :=
  BitVec.toNat_setWidth_of_le (by decide)

/-- A five-bit register is determined by the byte it reads as. -/
theorem setWidth_five_inj {a b : BitVec 5} (h : a.setWidth 8 = b.setWidth 8) : a = b := by
  have hn := congrArg BitVec.toNat h
  rw [toNat_setWidth_five, toNat_setWidth_five] at hn
  exact BitVec.eq_of_toNat_eq hn

/-- The low byte of the next instruction's address, as a number. -/
theorem toNat_next_low (a : ProgAddr) :
    ((a + 1).extractLsb' 0 8).toNat = (a.toNat + 1) % 256 := by
  rw [toNat_field, BitVec.toNat_add]
  simp

/-- The byte a five-bit register reads as has nothing above its five bits. -/
theorem setWidth_five_and_mask (a : BitVec 5) : a.setWidth 8 &&& 0x1F#8 = a.setWidth 8 := by
  apply BitVec.eq_of_getLsbD_eq
  intro i hi
  interval_cases i <;> simp

/-- `Add8` is the sum modulo 256 (40_byte_oriented.md R80). -/
theorem add8_value_toNat (a b : Byte) : (add8 a b).value.toNat = (a.toNat + b.toNat) % 256 := by
  simp [add8, sumWithCarries]

/-! ## STATUS as a destination -/

/-- STATUS written by an instruction that affects no flag (10_state.md R17), as a number. -/
theorem statusWritePlain_toNat (v st : Byte) :
    (statusWritePlain v st).toNat =
      v.toNat / 32 * 32 + st.toNat % 32 / 8 * 8 + v.toNat % 8 := by
  refine (join_toNat _ _ _).trans ?_
  rw [toNat_field, toNat_field, toNat_field]
  have := v.isLt
  omega

/-- The flags of an update that affects Z alone, as a number. -/
theorem bits_toNat_of_z (z : Bool) (st : Byte) :
    (FlagUpdate.bits { z := some z } st).toNat = z.toNat * 4 + st.toNat % 4 := by
  refine (toNat_concat _ (BitVec.ofBool (st.getLsbD 0))).trans ?_
  rw [toNat_concat]
  simp only [Option.getD_some, Option.getD_none]
  rw [toNat_ofBool_getLsbD, toNat_ofBool_getLsbD, BitVec.toNat_ofBool]
  omega

/-- STATUS written by an instruction that affects Z alone (10_state.md R18), as a number. -/
theorem statusWrite_toNat_of_z (v : Byte) (z : Bool) (st : Byte) :
    (statusWrite v { z := some z } st).toNat =
      v.toNat / 32 * 32 + st.toNat % 32 / 8 * 8 + z.toNat * 4 + st.toNat % 4 := by
  refine (join_toNat _ _ _).trans ?_
  rw [toNat_field, toNat_field, bits_toNat_of_z]
  have := v.isLt
  omega

/-- A result stored in STATUS changes nothing else. -/
theorem writeDest_of_status {f : FileAddr} {s : State} (h : target f s = .status) (r : AluResult) :
    writeDest f .f r s = s.setStatus (statusWrite r.value r.flags s.status) :=
  if_pos h

/-! ## The register at an effective address -/

/-- The low locations of both banks hold the special-function registers. -/
theorem resolve_of_lt (a : DataAddr) (h : a.toNat % 128 < 0x0C) :
    resolve a = sfrMap (a.toNat % 128) (a.getLsbD 7) := by
  have hl : (a.extractLsb' 0 7).toNat = a.toNat % 128 := by simp
  simp only [resolve, hl, if_pos h]

/-- The locations 0Ch to 4Fh of both banks hold the general-purpose bytes. -/
theorem resolve_of_gpr (a : DataAddr) (h : 0x0C ≤ a.toNat % 128) (h' : a.toNat % 128 ≤ 0x4F) :
    resolve a = .gpr (a.extractLsb' 0 7) := by
  have hl : (a.extractLsb' 0 7).toNat = a.toNat % 128 := by simp
  simp only [resolve, hl, if_neg (Nat.not_lt.2 h), if_pos h']

variable {f : FileAddr} {s : State} {n : Nat}

/-- The operand's register by its location, where the bank is left open. -/
theorem target_of_location (h : (ea f s).toNat % 128 = n) (hn : n < 0x0C) :
    target f s = sfrMap n ((ea f s).getLsbD 7) := by
  subst h
  exact resolve_of_lt _ hn

/-- The operand's register by its effective address. -/
theorem target_of_address (h : (ea f s).toNat = n) : target f s = resolve (BitVec.ofNat 8 n) := by
  subst h
  rw [BitVec.ofNat_toNat, BitVec.setWidth_eq, target]

/-- What an operand reads as, its register known. -/
theorem fileRead_of_target {r : FileReg} (h : target f s = r) : fileRead f s = readReg r s :=
  congrArg (readReg · s) h

theorem fileRead_of_location (h : (ea f s).toNat % 128 = n) (hn : n < 0x0C) :
    fileRead f s = readReg (sfrMap n ((ea f s).getLsbD 7)) s :=
  fileRead_of_target (target_of_location h hn)

theorem fileRead_of_address (h : (ea f s).toNat = n) :
    fileRead f s = readReg (resolve (BitVec.ofNat 8 n)) s :=
  fileRead_of_target (target_of_address h)

/-- A general-purpose byte is read under its location. -/
theorem fileRead_of_gpr (h : 0x0C ≤ (ea f s).toNat % 128) (h' : (ea f s).toNat % 128 ≤ 0x4F) :
    fileRead f s = Memory.read s.gpr ((ea f s).toNat % 128) := by
  rw [fileRead_of_target (resolve_of_gpr (ea f s) h h'), readReg, toNat_field]
  simp

/-! ## What storing a result leaves -/

section Stored

variable {t : State} {d : Dest} {v : Byte} {z dc c : Option Bool} {next : ProgAddr}

/-- PCLATH stays unless it is the destination (10_state.md R20). -/
theorem Stores.pclath_eq (h : Stores f d v z dc c next s t) (hd : d = .f → target f s ≠ .pclath) :
    t.pclath = s.pclath :=
  setWidth_five_inj <| (h.registers .pclath (by decide) (by decide)).trans <|
    if_neg fun e => hd e.1 e.2.symm

/-- PORTA's latch stays unless it is the destination. -/
theorem Stores.portA_eq (h : Stores f d v z dc c next s t) (hd : d = .f → target f s ≠ .portA) :
    t.portA = s.portA :=
  setWidth_five_inj <| (h.registers .portA (by decide) (by decide)).trans <|
    if_neg fun e => hd e.1 e.2.symm

/-- PORTB's latch stays unless it is the destination. -/
theorem Stores.portB_eq (h : Stores f d v z dc c next s t) (hd : d = .f → target f s ≠ .portB) :
    t.portB = s.portB :=
  (h.registers .portB (by decide) (by decide)).trans <| if_neg fun e => hd e.1 e.2.symm

/-- A result that goes to PORTA is its latch, in five bits. -/
theorem Stores.portA_stored (h : Stores f .f v z dc c next s t) (hf : target f s = .portA) :
    t.portA.setWidth 8 = v &&& 0x1F#8 :=
  (h.registers .portA (by decide) (by decide)).trans <| if_pos ⟨rfl, hf.symm⟩

/-- A result that goes to PORTB is its latch. -/
theorem Stores.portB_stored (h : Stores f .f v z dc c next s t) (hf : target f s = .portB) :
    t.portB = v :=
  (h.registers .portB (by decide) (by decide)).trans <| if_pos ⟨rfl, hf.symm⟩

end Stored

end Sys2Proof.Machine
end

