-- ==== Sys2Proof/Proofs/StateFrames.lean ====
section
/-! SUPPORT. What an execution and a step can do to STATUS and PCLATH (10_state.md R20, R29). -/

namespace Sys2Proof.Machine

/-- An execution stores a result, or it keeps PCLATH and, but for CLRWDT and SLEEP, TO and PD. -/
theorem exec_stores_or_keeps {i : Instr} {s t : State} (h : exec i s = .next t) :
    (∃ f d v z dc c next, (d = .f → (writtenBy i).file = some f) ∧ Stores f d v z dc c next s t) ∨
      (t.pclath = s.pclath ∧
        (t.status.extractLsb' 3 2 = s.status.extractLsb' 3 2 ∨ i = .clrwdt ∨ i = .sleep)) := by
  rcases exec_cases h with ⟨f, d, r, -, hw, rfl⟩ | ⟨f, d, r, -, hw, rfl⟩ | ⟨f, r, -, hw, rfl⟩ |
    ⟨f, b, -, rfl⟩ | ⟨r, rfl⟩ | ⟨-, rfl⟩ | ⟨k, -, rfl⟩ | ⟨k, -, rfl⟩ | ⟨-, rfl⟩ | ⟨k, -, rfl⟩ |
    ⟨-, rfl⟩ | ⟨hclrwdt, rfl⟩ | ⟨hsleep, rfl⟩ | ⟨-, rfl⟩ | ⟨-, rfl⟩ | ⟨-, rfl⟩
  · exact .inl ⟨f, d, _, _, _, _, _, hw, readModifyStore_stores f d r s⟩
  · exact .inl ⟨f, d, _, _, _, _, _, hw, readModifyStoreSkip_stores f d r s⟩
  · exact .inl ⟨f, .f, _, _, _, _, _, fun _ => hw, writeDest_nextPc_stores f .f r s⟩
  · obtain ⟨n, hn⟩ := afterRead_eq f s
    rw [hn]
    exact .inr ⟨rfl, .inl rfl⟩
  · exact .inr ⟨rfl, .inl (apply_timePower ..)⟩
  -- Of the rest only CLRWDT and SLEEP touch STATUS, and none touches PCLATH.
  iterate 6 exact .inr ⟨rfl, .inl rfl⟩
  · exact .inr ⟨rfl, .inr (.inl hclrwdt)⟩
  · exact .inr ⟨rfl, .inr (.inr hsleep)⟩
  iterate 3 exact .inr ⟨rfl, .inl rfl⟩

/-- TO and PD change in an execution only by CLRWDT and SLEEP (10_state.md R29). -/
theorem exec_timePower {i : Instr} {s t : State} (h : exec i s = .next t) :
    t.status.extractLsb' 3 2 = s.status.extractLsb' 3 2 ∨ i = .clrwdt ∨ i = .sleep := by
  rcases exec_stores_or_keeps h with ⟨f, d, v, z, dc, c, next, -, hst⟩ | ⟨-, ht⟩
  · exact .inl hst.timePower
  · exact ht

/-- PCLATH changes in an execution only as its file destination (10_state.md R20). -/
theorem exec_pclath {i : Instr} {s t : State} (h : exec i s = .next t)
    (hd : ∀ f, (writtenBy i).file = some f → target f s ≠ .pclath) : t.pclath = s.pclath := by
  rcases exec_stores_or_keeps h with ⟨f, d, v, z, dc, c, next, hw, hst⟩ | ⟨hp, -⟩
  · exact hst.pclath_eq fun e => hd f (hw e)
  · exact hp

/-- The boundary before an instruction leaves STATUS, PCLATH, what is fetched, and what the operands
denote. -/
theorem boundary_running_keeps {s u : State} (h : boundary s = .running u) :
    u.status = s.status ∧ u.pclath = s.pclath ∧ fetch u = decode (progRead s.pc s) ∧
      ∀ f, target f u = target f s := by
  obtain ⟨-, -, -, -, rfl⟩ := boundary_running_cases h
  exact ⟨rfl, rfl, rfl, fun _ => rfl⟩

/-- A time-out that has an effect: the event, with WDTE = 1 (60_exceptions.md R153). -/
theorem timesOut_iff (s : State) :
    s.timesOut = true ↔ s.input.wdtTimeout = true ∧ s.configWord.getLsbD 2 = true :=
  Bool.and_eq_true_iff

/-- What a step can do to STATUS and PCLATH: the boundary brings a reset, or a time-out, which in
SLEEP keeps PCLATH; or the step keeps both; or an instruction is executed. -/
theorem step_status_pclath_cases {s t : State} (h : step s = .next t) :
    s.input.reset ≠ none ∨ (s.timesOut = true ∧ (s.sleeping = true → t.pclath = s.pclath)) ∨
      (t.status = s.status ∧ t.pclath = s.pclath) ∨
      ∃ u i, boundary s = .running u ∧ fetch u = .ok i ∧ exec i u = .next t := by
  rcases step_cases h with hb | ⟨u, hb, rfl⟩ | hrun
  · rcases boundary_settled_cases hb with ⟨r, hr, -⟩ | ⟨-, ⟨-, ht, rfl⟩ | ⟨-, -, -, rfl⟩ |
      ⟨-, -, -, rfl⟩ | ⟨ha, ht, -⟩⟩
    · exact .inl (by simp [hr])
    · exact .inr (.inl ⟨ht, fun _ => rfl⟩)
    · exact .inr (.inr (.inl ⟨rfl, rfl⟩))
    · exact .inr (.inr (.inl ⟨rfl, rfl⟩))
    · exact .inr (.inl ⟨ht, by simp [ha]⟩)
  · obtain ⟨-, -, -, -, rfl⟩ := boundary_entering_cases hb
    exact .inr (.inr (.inl ⟨rfl, rfl⟩))
  · exact .inr (.inr (.inr hrun))

end Sys2Proof.Machine
end

