-- ==== Sys2Proof/Proofs/StateStack.lean ====
section
/-! SUPPORT. The entries of the return stack after a push and a pop (10_state.md R19, log entry
3). -/

namespace Sys2Proof.Machine

variable {k : Stack}

theorem push_top (v : ProgAddr) (k : Stack) : (k.push v).top = v := rfl

/-- A push puts the new entry before those there is room for. -/
theorem push_entries (v : ProgAddr) (k : Stack) :
    (k.push v).entries = v :: k.slots.take (min k.live 7) := by
  have hl : min (k.live + 1) 8 = min k.live 7 + 1 := by omega
  have hm : min (min k.live 7) 7 = min k.live 7 := by omega
  simp only [Stack.entries, Stack.push, Config.stackDepth, hl, List.take_succ_cons, List.take_take,
    hm]

/-- With room left, a push puts the new entry before the others. -/
theorem push_entries_of_lt (v : ProgAddr) (h : k.live < 8) :
    (k.push v).entries = v :: k.entries := by
  rw [push_entries, Nat.min_eq_left (by omega), Stack.entries]

/-- A ninth push drops the oldest entry. -/
theorem push_entries_of_full (v : ProgAddr) (hs : k.slots.length = 8) (h : k.live = 8) :
    (k.push v).entries = v :: k.entries.dropLast := by
  rw [push_entries, Stack.entries, h, List.dropLast_eq_take, List.take_take, List.length_take, hs]
  rfl

/-- A pop of a live entry takes it from before the others. -/
theorem entries_eq_top_cons_pop (hs : k.slots.length = 8) (hl : k.live ≤ 8) (h : 0 < k.live) :
    k.entries = k.top :: k.pop.entries := by
  obtain ⟨slots, live⟩ := k
  obtain ⟨n, rfl⟩ : ∃ n, live = n + 1 := ⟨live - 1, by dsimp only at h; omega⟩
  cases slots with
  | nil => cases hs
  | cons a rest =>
    have hn : n ≤ rest.length := by simp only [List.length_cons] at hs hl; omega
    simp [Stack.entries, Stack.top, Stack.pop, List.take_append_of_le_length hn]

/-- A pop undoes a push, as far as the entries go. -/
theorem pop_push_entries (v : ProgAddr) (hs : k.slots.length = 8) (h : k.live < 8) :
    (k.push v).pop.entries = k.entries := by
  obtain ⟨hslots, hlive⟩ := push_slots v k hs
  have hpop := entries_eq_top_cons_pop hslots hlive (by simp [Stack.push, Config.stackDepth])
  rw [push_entries_of_lt v h, push_top] at hpop
  exact (List.cons.inj hpop).2.symm

end Sys2Proof.Machine
end

