-- ==== Sys2Proof/Proofs/StateFamily.lean ====
section
/-! PROOFS. The statements of the family 10_state.md. -/

namespace Sys2Proof.Machine

/-- Settles O38, from what a step can do to STATUS: without a reset or a time-out only an execution
changes TO and PD, and of those only CLRWDT and SLEEP. -/
theorem toPdChangeOnlyByTheirEvents : Obligations.ToPdChangeOnlyByTheirEvents := by
  intro s t h hne
  rcases step_status_pclath_cases h with hr | ⟨ht, -⟩ | ⟨hst, -⟩ | ⟨u, i, hb, hf, he⟩
  · exact .inl hr
  · exact .inr (.inl ((timesOut_iff s).1 ht))
  · exact absurd (by rw [hst]) hne
  · obtain ⟨hst, -, hfetch, -⟩ := boundary_running_keeps hb
    rw [hfetch] at hf
    rcases exec_timePower he with hk | rfl | rfl
    · exact absurd (by rw [hk, hst]) hne
    · exact .inr (.inr (.inl hf))
    · exact .inr (.inr (.inr hf))

/-- Settles O27: CLRF stores 0 with Z computed, so STATUS takes bits 7:5 of 0 and Z = 1. -/
theorem clrfStatusLeavesToPdDcC : Obligations.ClrfStatusLeavesToPdDcC := by
  intro f s hf
  refine ⟨_, rfl, (congrArg State.status (writeDest_of_status (s := s.nextPc) hf _)).trans ?_⟩
  refine BitVec.eq_of_toNat_eq ((statusWrite_toNat_of_z 0 true s.status).trans ?_)
  simp
  omega

/-- MOVWF with STATUS as destination is a write of STATUS that affects no flag (10_state.md R17). -/
theorem exec_movwf_of_status {f : FileAddr} {s : State} (hf : target f s = .status) :
    exec (.movwf f) s =
      .next { s with pc := s.pc + 1, status := statusWritePlain s.w s.status } :=
  congrArg Host.Outcome.next (writeDest_of_status (s := s.nextPc) hf (plainResult s.w))

/-- MOVF f,0 loads into W what the operand reads as (40_byte_oriented.md R96). -/
theorem exec_movf_w (f : FileAddr) (s : State) :
    ∃ t, exec (.movf f .w) s = .next t ∧ t.w = fileRead f s :=
  ⟨_, rfl, (readModifyStore_stores f .w (zResult (fileRead f s)) s).w⟩

/-- Settles O28: MOVWF by the rule of a STATUS written without flags; MOVF by the register at the
effective address and what that register reads as. -/
theorem movfReadsEachRegisterMovwfStatusLeavesToPd :
    Obligations.MovfReadsEachRegisterMovwfStatusLeavesToPd := by
  intro f s
  refine ⟨fun hf => ?movwf, ?movf⟩
  case movwf =>
    rw [exec_movwf_of_status hf, ← statusWritePlain_toNat, BitVec.ofNat_toNat, BitVec.setWidth_eq]
  case movf =>
    obtain ⟨t, ht, hw⟩ := exec_movf_w f s
    refine ⟨t, ht, ?_⟩
    rw [hw]
    refine ⟨fun h => ?pcl,
      fun h => fileRead_of_location h (by decide),
      fun h => fileRead_of_location h (by decide),
      fun h => ?pclath,
      fun h => fileRead_of_location h (by decide),
      fun h => ?portA,
      fun h => fileRead_of_address h,
      fun h => fileRead_of_address h,
      fun h => ?trisA,
      fun h => fileRead_of_address h,
      fun h => ⟨target_of_address h, fileRead_of_address h⟩,
      fun h => ⟨target_of_address h, fileRead_of_address h⟩,
      fun h => ⟨target_of_address h, fileRead_of_address h⟩,
      fun h => ⟨target_of_address h, fileRead_of_address h⟩,
      fun h => ⟨target_of_address h, fileRead_of_address h⟩,
      fileRead_of_gpr⟩
    case pcl =>
      rw [fileRead_of_location h (by decide)]
      exact toNat_next_low s.pc
    case pclath =>
      rw [fileRead_of_location h (by decide)]
      exact toNat_setWidth_five s.pclath
    case portA =>
      rw [fileRead_of_address h]
      exact toNat_setWidth_five s.pinsA
    case trisA =>
      rw [fileRead_of_address h]
      exact toNat_setWidth_five s.trisA

/-- Settles O29: the value MOVF stores is what the port reads, its pins. -/
theorem portReadModifyWriteCopiesPins : Obligations.PortReadModifyWriteCopiesPins := by
  intro f s
  have stored := readModifyStore_stores f .f (zResult (fileRead f s)) s
  obtain ⟨-, hpinsA, hpinsB, -⟩ := stored.background
  refine ⟨fun hf => ⟨_, rfl, ?_, hpinsB, ?_⟩, fun hf => ⟨_, rfl, ?_, hpinsA, ?_⟩⟩
  · exact (stored.portB_stored hf).trans (fileRead_of_target hf)
  · exact stored.portA_eq fun _ => by simp [hf]
  · have hv : fileRead f s = s.pinsA.setWidth 8 := fileRead_of_target hf
    exact setWidth_five_inj ((stored.portA_stored hf).trans
      ((congrArg (· &&& 0x1F#8) hv).trans (setWidth_five_and_mask s.pinsA)))
  · exact stored.portB_eq fun _ => by simp [hf]

/-- Settles O30: PCL reads the low byte of pc + 1, and the sum goes to pc below PCLATH. -/
theorem addwfPclIsAComputedJump : Obligations.AddwfPclIsAComputedJump := by
  intro f s hf
  have stored := readModifyStore_stores f .f (add8 s.w (fileRead f s)) s
  refine ⟨_, rfl, ?_, stored.pclath_eq fun _ => by simp [hf], ?_⟩
  · have hread : (fileRead f s).toNat = (s.pc.toNat + 1) % 256 := by
      rw [fileRead_of_target hf, readReg, toNat_next_low]
    rw [stored.pc, if_pos ⟨rfl, hf⟩]
    refine (toNat_concat s.pclath _).trans ?_
    rw [add8_value_toNat, hread, Nat.add_comm s.w.toNat]
    rfl
  · simp [cycles, modifiesPcl, storesToPcl, hf]

/-- Settles O41, as O38: without a reset, or a time-out while executing, only an execution changes
PCLATH, and of those only one whose file destination it is. -/
theorem pclathChangesOnlyAsDestinationOrByReset :
    Obligations.PclathChangesOnlyAsDestinationOrByReset := by
  refine ⟨fun i s => ?_, fun s t h hne => ?_⟩
  · obtain ⟨t, h⟩ := exec_completes i s
    exact ⟨t, h, exec_pclath h⟩
  · rcases step_status_pclath_cases h with hr | ⟨ht, hs⟩ | ⟨-, hp⟩ | ⟨u, i, hb, hf, he⟩
    · exact .inl hr
    · exact .inr (.inl ⟨by simpa using mt hs hne, (timesOut_iff s).1 ht⟩)
    · exact absurd hp hne
    · obtain ⟨-, hp, hfetch, htarget⟩ := boundary_running_keeps hb
      rw [← hp] at hne
      have hd := mt (exec_pclath he) hne
      push Not at hd
      obtain ⟨f, hw, ht⟩ := hd
      exact .inr (.inr ⟨i, f, hfetch ▸ hf, hw, (htarget f).symm.trans ht⟩)

/-- Settles O45, from the entries after a push and after a pop. -/
theorem stackIsLastInFirstOut : Obligations.StackIsLastInFirstOut := by
  intro k v hs hl
  exact ⟨push_top v k, (push_slots v k hs).1, (pop_slots k hs hl).1,
    fun h => ⟨push_entries_of_lt v h, pop_push_entries v hs h⟩, push_entries_of_full v hs,
    entries_eq_top_cons_pop hs hl⟩

end Sys2Proof.Machine
end

