-- ==== Sys2Proof/Proofs/MemoryFrames.lean ====
section
/-! SUPPORT. What an execution and a step can do to the memories, the stack and SLEEP
(20_memory.md R44, R52 to R56; 10_state.md R19, R23; 70_reset_and_hazards.md R173). -/

namespace Sys2Proof.Machine

/-! ## Data memory -/

/-- A register write reaches data memory only as the write of one general-purpose byte. -/
theorem writeReg_gpr_cases (r : FileReg) (v : Byte) (s : State) :
    (writeReg r v s).gpr = s.gpr ∨
      ∃ l, r = .gpr l ∧ (writeReg r v s).gpr = Memory.write s.gpr l.toNat v := by
  cases r with
  | gpr l => exact .inr ⟨l, rfl, rfl⟩
  | _ => exact .inl rfl

/-- WriteDest reaches data memory only as the write of the byte its operand denotes. -/
theorem writeDest_gpr_cases (f : FileAddr) (d : Dest) (r : AluResult) (s : State) :
    (writeDest f d r s).gpr = s.gpr ∨
      ∃ l, target f s = .gpr l ∧ (writeDest f d r s).gpr = Memory.write s.gpr l.toNat r.value := by
  cases d with
  | w => exact .inl rfl
  | f =>
    by_cases ht : target f s = .status
    · exact .inl (by rw [writeDest_of_status ht]; rfl)
    · simpa only [writeDest, if_neg ht, setStatus_gpr] using
        writeReg_gpr_cases (target f s) r.value s

/-- The byte an operand denotes lies in 0Ch to 4Fh, so its write keeps the form of data memory. -/
theorem memory_write_target_wf {f l : FileAddr} {s : State} {m : Memory} (v : Byte)
    (ht : target f s = .gpr l) (hm : Memory.wf m = true) :
    Memory.wf (Memory.write m l.toNat v) = true :=
  memory_write_wf m _ v hm (resolve_gpr _ l ht)

theorem writeDest_gpr_wf (f : FileAddr) (d : Dest) (r : AluResult) {s : State}
    (h : Memory.wf s.gpr = true) : Memory.wf (writeDest f d r s).gpr = true := by
  rcases writeDest_gpr_cases f d r s with hg | ⟨l, ht, hg⟩
  · rwa [hg]
  · rw [hg]
    exact memory_write_target_wf _ ht h

/-! ## An execution -/

/-- What an execution can do to the memories, the stack and SLEEP: at most the general-purpose byte
of the file operand is written, the stack is pushed or popped at most once, and SLEEP is entered by
its instruction alone, which sets TO = 1 and PD = 0. -/
structure ExecFrame (i : Instr) (s t : State) : Prop where
  prog : t.prog = s.prog
  configWord : t.configWord = s.configWord
  resuming : t.resuming = s.resuming
  gpr : t.gpr = s.gpr ∨
    ∃ f l v, fileOperand i = some f ∧ target f s = .gpr l ∧ t.gpr = Memory.write s.gpr l.toNat v
  stack : t.stack = s.stack ∨ (∃ a, t.stack = s.stack.push a) ∨ t.stack = s.stack.pop
  sleeping : t.sleeping = s.sleeping ∨ (i = .sleep ∧ t.status.extractLsb' 3 2 = 0b10#2)

variable {i : Instr} {s t : State}

/-- An execution that stores a result through WriteDest, from a state that differs from `s` by the
program counter and the free values used. -/
theorem ExecFrame.of_writeDest {f : FileAddr} (hf : fileOperand i = some f) (d : Dest)
    (r : AluResult) (a : ProgAddr) (n : Nat) (s : State) :
    ExecFrame i s (writeDest f d r ((s.setDraws n).setPc a)) := by
  obtain ⟨hstack, -, -, -, hsleeping, hresuming, hprog, hconfig, -⟩ :=
    (writeDest_stores f d r a n s).background
  refine ⟨hprog, hconfig, hresuming, ?_, .inl hstack, .inl hsleeping⟩
  rcases writeDest_gpr_cases f d r ((s.setDraws n).setPc a) with hg | ⟨l, ht, hg⟩
  · exact .inl hg
  · exact .inr ⟨f, l, r.value, hf, ht, hg⟩

/-- Every execution: where a result is stored it is WriteDest's doing; CALL and the returns move the
stack, SLEEP enters SLEEP, and the other instructions touch none of these pieces of state. -/
theorem exec_frame (h : exec i s = .next t) : ExecFrame i s t := by
  rcases exec_cases h with ⟨f, d, r, hf, -, rfl⟩ | ⟨f, d, r, hf, -, rfl⟩ | ⟨f, r, hf, -, rfl⟩ |
    ⟨f, b, -, rfl⟩ | ⟨r, rfl⟩ | ⟨-, rfl⟩ | ⟨k, -, rfl⟩ | ⟨k, -, rfl⟩ | ⟨-, rfl⟩ | ⟨k, -, rfl⟩ |
    ⟨-, rfl⟩ | ⟨-, rfl⟩ | ⟨hsleep, rfl⟩ | ⟨-, rfl⟩ | ⟨-, rfl⟩ | ⟨-, rfl⟩
  -- Results that go through WriteDest, after a read of `f` or without one, and the bit tests.
  · obtain ⟨n, hn⟩ := afterRead_eq f s
    rw [readModifyStore, hn]
    exact .of_writeDest hf d r _ n s
  · obtain ⟨n, hn⟩ := afterRead_eq f s
    rw [readModifyStoreSkip, hn]
    exact .of_writeDest hf d r _ n s
  · exact .of_writeDest hf .f r _ s.draws s
  · obtain ⟨n, hn⟩ := afterRead_eq f s
    rw [hn]
    exact ⟨rfl, rfl, rfl, .inl rfl, .inl rfl, .inl rfl⟩
  -- Literal operations, NOP and GOTO.
  iterate 3 exact ⟨rfl, rfl, rfl, .inl rfl, .inl rfl, .inl rfl⟩
  -- CALL pushes, the three returns pop.
  · exact ⟨rfl, rfl, rfl, .inl rfl, .inr (.inl ⟨_, rfl⟩), .inl rfl⟩
  iterate 3 exact ⟨rfl, rfl, rfl, .inl rfl, .inr (.inr rfl), .inl rfl⟩
  -- CLRWDT and SLEEP.
  · exact ⟨rfl, rfl, rfl, .inl rfl, .inl rfl, .inl rfl⟩
  · exact ⟨rfl, rfl, rfl, .inl rfl, .inl rfl, .inr ⟨hsleep, statusTimePower_bits s.status true false⟩⟩
  -- OPTION and TRIS.
  iterate 3 exact ⟨rfl, rfl, rfl, .inl rfl, .inl rfl, .inl rfl⟩

/-! ## What every step keeps of the memories and the stack -/

/-- The buffer of the return stack as `State.Inv` has it: its eight slots, at most eight of them live
(10_state.md R19, log entry 3). -/
def Stack.EightSlots (k : Stack) : Prop :=
  k.slots.length = Config.stackDepth ∧ k.live ≤ Config.stackDepth

/-- From `s` to `t` program memory and the configuration word stay, data memory stays in its form,
and the return stack keeps its eight slots. -/
structure StorageKept (s t : State) : Prop where
  prog : t.prog = s.prog
  configWord : t.configWord = s.configWord
  gpr : Memory.wf s.gpr = true → Memory.wf t.gpr = true
  stack : s.stack.EightSlots → t.stack.EightSlots

theorem StorageKept.trans {s t u : State} (h : StorageKept s t) (h' : StorageKept t u) :
    StorageKept s u :=
  ⟨h'.prog.trans h.prog, h'.configWord.trans h.configWord, h'.gpr ∘ h.gpr, h'.stack ∘ h.stack⟩

/-- An update of other fields keeps the memories and the stack. -/
theorem StorageKept.of_eq (hp : t.prog = s.prog) (hc : t.configWord = s.configWord)
    (hg : t.gpr = s.gpr) (hs : t.stack = s.stack) : StorageKept s t :=
  ⟨hp, hc, fun h => hg ▸ h, fun h => hs ▸ h⟩

theorem exec_storageKept (h : exec i s = .next t) : StorageKept s t := by
  have hf := exec_frame h
  refine ⟨hf.prog, hf.configWord, fun hm => ?_, fun hk => ?_⟩
  · rcases hf.gpr with hg | ⟨f, l, v, -, ht, hg⟩ <;> rw [hg]
    · exact hm
    · exact memory_write_target_wf v ht hm
  · rcases hf.stack with hs | ⟨a, hs⟩ | hs <;> rw [hs]
    · exact hk
    · exact push_slots a s.stack hk.1
    · exact pop_slots s.stack hk.1 hk.2

/-- An instruction cut short reaches data memory only through WriteDest. -/
theorem cutShort_gpr_cases (x : Written) (s : State) :
    (cutShort x s).gpr = s.gpr ∨ ∃ f r, (cutShort x s).gpr = (writeDest f .f r s).gpr := by
  simp only [cutShort, setDraws_gpr, apply_ite State.gpr, setStatus_gpr, setW_gpr, ite_self]
  cases x.file with
  | none => exact .inl rfl
  | some f => exact .inr ⟨f, _, rfl⟩

theorem cutShort_storageKept (x : Written) (s : State) : StorageKept s (cutShort x s) := by
  obtain ⟨hstack, -, -, -, -, -, hprog, hconfig, -⟩ := cutShort_background x s
  refine ⟨hprog, hconfig, fun h => ?_, fun h => hstack ▸ h⟩
  rcases cutShort_gpr_cases x s with hg | ⟨f, r, hg⟩ <;> rw [hg]
  · exact h
  · exact writeDest_gpr_wf f .f r h

theorem instructionCut_storageKept (s : State) : StorageKept s s.instructionCut := by
  unfold State.instructionCut
  split
  · exact .of_eq rfl rfl rfl rfl
  · split
    · exact cutShort_storageKept _ s
    · exact .of_eq rfl rfl rfl rfl

/-- A reset leaves no entry live, and where it makes data memory and the slots unknown they keep their
form (70_reset_and_hazards.md R171, R172). -/
theorem deviceReset_storageKept (kind : ResetKind) (s : State) :
    StorageKept s (deviceReset kind s) := by
  cases kind with
  | powerOn =>
    exact ⟨rfl, rfl, fun _ => unknownGpr_wf _ 68 (by decide), fun _ => ⟨rfl, Nat.zero_le _⟩⟩
  | external | watchdog => exact ⟨rfl, rfl, id, fun h => ⟨h.1, Nat.zero_le _⟩⟩

theorem raisedReset_storageKept (r : ResetEvent) (s : State) : StorageKept s (raisedReset r s) := by
  cases r with
  | powerOn => exact deviceReset_storageKept .powerOn s
  | external => exact deviceReset_storageKept .external s
  | externalCut =>
    exact (instructionCut_storageKept s).trans (deviceReset_storageKept .external s.instructionCut)

theorem raisedReset_awake (r : ResetEvent) (s : State) : (raisedReset r s).sleeping = false := by
  cases r <;> exact (deviceReset_leaves _ _).2.1

theorem driven_storageKept (s : State) : StorageKept s s.driven := .of_eq rfl rfl rfl rfl

theorem raiseFlags_storageKept (e : EnvInput) (asleep : Bool) (s : State) :
    StorageKept s (raiseFlags e asleep s) := .of_eq rfl rfl rfl rfl

theorem interruptEntry_storageKept (s : State) : StorageKept s (interruptEntry s) :=
  ⟨rfl, rfl, id, fun h => push_slots s.pc s.stack h.1⟩

theorem wake_storageKept (s : State) : StorageKept s s.wake := .of_eq rfl rfl rfl rfl

theorem watchdogWake_storageKept (s : State) : StorageKept s (watchdogWake s) :=
  .of_eq rfl rfl rfl rfl

theorem setResuming_storageKept (b : Bool) (s : State) : StorageKept s (s.setResuming b) :=
  .of_eq rfl rfl rfl rfl

/-- Every step: the boundary drives levels, counts and flags, wakes or resets; interrupt entry pushes;
an instruction is executed. -/
theorem step_storageKept (h : step s = .next t) : StorageKept s t := by
  have raised (asleep : Bool) : StorageKept s (raiseFlags s.input asleep s.driven) :=
    (driven_storageKept s).trans (raiseFlags_storageKept ..)
  rcases step_cases h with hb | ⟨u, hb, rfl⟩ | ⟨u, i, hb, -, he⟩
  · rcases boundary_settled_cases hb with ⟨r, -, rfl⟩ | ⟨-, ⟨-, -, rfl⟩ | ⟨-, -, -, rfl⟩ |
      ⟨-, -, -, rfl⟩ | ⟨-, -, rfl⟩⟩
    · exact ((driven_storageKept s).trans (raisedReset_storageKept r _)).trans
        (raiseFlags_storageKept ..)
    · exact (raised true).trans (watchdogWake_storageKept _)
    · exact (raised true).trans (wake_storageKept _)
    · exact raised true
    · exact ((driven_storageKept s).trans (deviceReset_storageKept .watchdog _)).trans
        (raiseFlags_storageKept ..)
  · obtain ⟨-, -, -, -, rfl⟩ := boundary_entering_cases hb
    exact (raised false).trans (interruptEntry_storageKept _)
  · obtain ⟨-, -, -, -, rfl⟩ := boundary_running_cases hb
    exact ((raised false).trans (setResuming_storageKept false _)).trans (exec_storageKept he)

/-! ## SLEEP -/

/-- How a step can leave SLEEPING: awake; in SLEEP by its instruction, which sets TO = 1 and PD = 0;
or SLEEP goes on with TO and PD as they were. -/
theorem step_sleeping_cases (h : step s = .next t) :
    t.sleeping = false ∨ (t.status.extractLsb' 3 2 = 0b10#2 ∧ t.resuming = false) ∨
      (t.sleeping = s.sleeping ∧ t.resuming = s.resuming ∧ t.status = s.status) := by
  rcases step_cases h with hb | ⟨u, hb, rfl⟩ | ⟨u, i, hb, -, he⟩
  · rcases boundary_settled_cases hb with ⟨r, -, rfl⟩ | ⟨-, ⟨-, -, rfl⟩ | ⟨-, -, -, rfl⟩ |
      ⟨-, -, -, rfl⟩ | ⟨-, -, rfl⟩⟩
    · exact .inl (raisedReset_awake r s.driven)
    · exact .inl rfl
    · exact .inl rfl
    · exact .inr (.inr ⟨rfl, rfl, rfl⟩)
    · exact .inl rfl
  · obtain ⟨-, ha, -, -, rfl⟩ := boundary_entering_cases hb
    exact .inl ha
  · obtain ⟨-, ha, -, -, rfl⟩ := boundary_running_cases hb
    have hf := exec_frame he
    rcases hf.sleeping with hs | ⟨-, hst⟩
    · exact .inl (hs.trans ha)
    · exact .inr (.inl ⟨hst, hf.resuming⟩)

end Sys2Proof.Machine
end

