-- ==== Sys2Proof/Proofs/MemoryMap.lean ====
section
/-! SUPPORT. Which register an operand denotes, what a store at it does, and what a program address
reads as (20_memory.md R40 to R45, R58). -/

namespace Sys2Proof.Machine

/-! ## The data memory map -/

/-- Of the special-function locations 03h alone is STATUS, in either bank. -/
theorem sfrMap_eq_status_iff :
    ∀ n < 0x0C, ∀ bank1, (sfrMap n bank1 = .status ↔ n = 0x03) := by decide

/-- The locations 50h to 7Fh and 07h of both banks are not implemented (20_memory.md R58). -/
theorem resolve_of_unimplemented (a : DataAddr)
    (h : 0x50 ≤ a.toNat % 128 ∨ a.toNat % 128 = 0x07) : resolve a = .unimplemented := by
  rcases h with h | h
  · have hl : (a.extractLsb' 0 7).toNat = a.toNat % 128 := by simp
    simp only [resolve, hl, if_neg (show ¬ a.toNat % 128 < 0x0C by omega),
      if_neg (show ¬ a.toNat % 128 ≤ 0x4F by omega)]
  · rw [resolve_of_lt a (by omega), h]
    rfl

/-- The location of an effective address as the seven bits of an operand. -/
theorem extract_location (a : DataAddr) : a.extractLsb' 0 7 = BitVec.ofNat 7 (a.toNat % 128) :=
  BitVec.eq_of_toNat_eq (by simp)

theorem resolve_eq_status_iff (a : DataAddr) : resolve a = .status ↔ a.toNat % 128 = 0x03 := by
  by_cases hlow : a.toNat % 128 < 0x0C
  · rw [resolve_of_lt a hlow, sfrMap_eq_status_iff _ hlow]
  · by_cases hgpr : a.toNat % 128 ≤ 0x4F
    · rw [resolve_of_gpr a (by omega) hgpr]
      simp only [reduceCtorEq, false_iff]
      omega
    · rw [resolve_of_unimplemented a (by omega)]
      simp only [reduceCtorEq, false_iff]
      omega

/-! ## Operands -/

/-- A direct address: 128 in bank 1, plus `f` (20_memory.md R42). -/
theorem eaDirect_toNat (f : FileAddr) (s : State) :
    (eaDirect f s).toNat = (if s.status.getLsbD 5 then 128 else 0) + f.toNat := by
  refine (toNat_concat (BitVec.ofBool s.rp0) f).trans ?_
  rw [State.rp0]
  cases s.status.getLsbD 5 <;> simp

theorem ea_zero (s : State) : ea 0 s = s.fsr := if_pos rfl

theorem ea_of_ne_zero {f : FileAddr} (h : f ≠ 0) (s : State) : ea f s = eaDirect f s := if_neg h

/-- An operand 0Ch to 4Fh denotes the general-purpose byte of its location, whatever the bank
(20_memory.md R44). -/
theorem target_of_gpr_operand {f : FileAddr} (h : 0x0C ≤ f.toNat) (h' : f.toNat ≤ 0x4F)
    (s : State) : target f s = .gpr f := by
  have hne : f ≠ 0 := by rintro rfl; exact absurd h (by decide)
  have hloc : (eaDirect f s).toNat % 128 = f.toNat := by
    rw [eaDirect_toNat]
    have := f.isLt
    split <;> omega
  rw [target, ea_of_ne_zero hne, resolve_of_gpr _ (by omega) (by omega), extract_location, hloc,
    BitVec.ofNat_toNat, BitVec.setWidth_eq]

/-- Operands that denote one register are read and stored alike. -/
theorem readModifyStore_congr {f g : FileAddr} {s : State} (h : target f s = target g s) (d : Dest)
    (r : AluResult) : readModifyStore f d r s = readModifyStore g d r s := by
  have hread : afterRead f s = afterRead g s := by rw [afterRead, afterRead, h]
  obtain ⟨n, hn⟩ := afterRead_eq g s
  have ht : target f ((s.setDraws n).nextPc) = target g ((s.setDraws n).nextPc) := h
  cases d with
  | w => rw [readModifyStore, readModifyStore, hread]; rfl
  | f => rw [readModifyStore, readModifyStore, hread, hn, writeDest, writeDest, ht]

theorem fileRead_congr {f g : FileAddr} {s : State} (h : target f s = target g s) :
    fileRead f s = fileRead g s := by
  rw [fileRead, fileRead, h]

/-- MOVWF to a register that takes no write changes nothing but the program counter. -/
theorem exec_movwf_of_ignored {f : FileAddr} {s : State} {r : FileReg} (ht : target f s = r)
    (hne : r ≠ .status) (hw : ∀ v u, writeReg r v u = u) :
    exec (.movwf f) s = .next { s with pc := s.pc + 1 } := by
  have ht' : target f s.nextPc = r := ht
  have hd : writeDest f .f (plainResult s.w) s.nextPc = s.nextPc := by
    simp only [writeDest, ht', if_neg hne, hw, plainResult, apply_keep]
    rfl
  exact congrArg Host.Outcome.next hd

/-! ## What a list of cells reads as -/

section Cells

variable {β : Type} {d v : β} {m : List (Nat × β)} {a lo : Nat}

/-- Where addresses rise from `lo`, every listed address is greater. -/
theorem lt_of_mem_of_rises (h : cellsRiseFrom lo m = true) (hm : (a, v) ∈ m) : lo < a := by
  induction m generalizing lo with
  | nil => cases hm
  | cons c m ih =>
    obtain ⟨k, w⟩ := c
    simp only [cellsRiseFrom, Bool.and_eq_true, decide_eq_true_eq] at h
    rcases List.mem_cons.1 hm with e | hm
    · cases e
      exact h.1
    · exact h.1.trans (ih h.2 hm)

/-- Where addresses rise, a listed cell is what its address reads as. -/
theorem cellRead_of_mem (h : cellsRise m = true) (hm : (a, v) ∈ m) : cellRead d m a = v := by
  induction m with
  | nil => cases hm
  | cons c m ih =>
    obtain ⟨k, w⟩ := c
    rcases List.mem_cons.1 hm with e | hm
    · cases e
      exact if_pos rfl
    · have hk : k ≠ a := (lt_of_mem_of_rises h hm).ne
      have htail : cellsRise m = true := by
        cases m with
        | nil => rfl
        | cons c m =>
          simp only [cellsRise, cellsRiseFrom, Bool.and_eq_true] at h ⊢
          exact h.2
      exact (if_neg hk).trans (ih htail hm)

/-- An address that is not listed reads as the unlisted value. -/
theorem cellRead_of_not_mem (h : ∀ v, (a, v) ∉ m) : cellRead d m a = d := by
  induction m with
  | nil => rfl
  | cons c m ih =>
    obtain ⟨k, w⟩ := c
    have hk : k ≠ a := by rintro rfl; exact h w (List.mem_cons_self ..)
    exact (if_neg hk).trans (ih fun v hv => h v (List.mem_cons_of_mem _ hv))

end Cells

end Sys2Proof.Machine
end

