-- ==== Sys2Proof/Proofs/MemoryProgram.lean ====
section
/-! SUPPORT. The machine with another program memory: every operation of an execution does the same
(20_memory.md R56, 70_reset_and_hazards.md R179). -/

namespace Sys2Proof.Machine

/-- The state with another program memory. -/
def State.withProg (s : State) (p : Program) : State := { s with prog := p }

variable (s : State) (p : Program)

/-! ## Operands -/

theorem target_withProg (f : FileAddr) : target f (s.withProg p) = target f s := rfl

theorem readReg_withProg (r : FileReg) : readReg r (s.withProg p) = readReg r s := by
  cases r <;> rfl

theorem fileRead_withProg (f : FileAddr) : fileRead f (s.withProg p) = fileRead f s :=
  readReg_withProg s p (target f s)

theorem afterRead_withProg (f : FileAddr) :
    afterRead f (s.withProg p) = (afterRead f s).withProg p := by
  unfold afterRead
  rw [target_withProg]
  split <;> rfl

/-! ## Stores -/

theorem writeReg_withProg (r : FileReg) (v : Byte) :
    writeReg r v (s.withProg p) = (writeReg r v s).withProg p := by
  cases r <;> rfl

theorem writeDest_withProg (f : FileAddr) (d : Dest) (r : AluResult) :
    writeDest f d r (s.withProg p) = (writeDest f d r s).withProg p := by
  cases d with
  | w => rfl
  | f =>
    by_cases ht : target f s = .status
    · rw [writeDest_of_status ht, writeDest_of_status (s := s.withProg p) ht]
      rfl
    · simp only [writeDest, target_withProg, if_neg ht, writeReg_withProg]
      rfl

theorem readModifyStore_withProg (f : FileAddr) (d : Dest) (r : AluResult) :
    readModifyStore f d r (s.withProg p) = (readModifyStore f d r s).withProg p := by
  rw [readModifyStore, afterRead_withProg]
  exact writeDest_withProg (afterRead f s).nextPc p f d r

theorem readModifyStoreSkip_withProg (f : FileAddr) (d : Dest) (r : AluResult) :
    readModifyStoreSkip f d r (s.withProg p) = (readModifyStoreSkip f d r s).withProg p := by
  rw [readModifyStoreSkip, afterRead_withProg]
  exact writeDest_withProg ((afterRead f s).skipIf (r.value == 0)) p f d r

/-- The skip after a read. -/
theorem skipIf_withProg (f : FileAddr) (test : Bool) :
    (afterRead f (s.withProg p)).skipIf test = ((afterRead f s).skipIf test).withProg p := by
  rw [afterRead_withProg]
  rfl

/-! ## Executions -/

/-- An execution with another program memory. The operations on a file register are the ones whose
result is computed from what they read; the others never look at a memory. -/
theorem exec_withProg {i : Instr} {s t : State} (h : exec i s = .next t) (p : Program) :
    exec i (s.withProg p) = .next (t.withProg p) := by
  match i, h with
  | .addwf .., h | .andwf .., h | .comf .., h | .decf .., h | .incf .., h | .iorwf .., h
  | .movf .., h | .rlf .., h | .rrf .., h | .subwf .., h | .swapf .., h | .xorwf .., h
  | .bcf .., h | .bsf .., h =>
    injection h with h
    subst h
    rw [← readModifyStore_withProg, ← fileRead_withProg s p]
    rfl
  | .decfsz .., h | .incfsz .., h =>
    injection h with h
    subst h
    rw [← readModifyStoreSkip_withProg, ← fileRead_withProg s p]
    rfl
  | .clrf f, h | .movwf f, h =>
    injection h with h
    subst h
    rw [← writeDest_withProg]
    rfl
  | .btfsc f b, h | .btfss f b, h =>
    injection h with h
    subst h
    rw [← fileRead_withProg s p]
    exact congrArg Host.Outcome.next (skipIf_withProg s p f _)
  | .clrw, h | .addlw .., h | .andlw .., h | .iorlw .., h | .movlw .., h | .sublw .., h
  | .xorlw .., h | .nop, h | .goto _, h | .call _, h | .ret, h | .retlw _, h | .retfie, h
  | .clrwdt, h | .sleep, h | .option, h | .trisA, h | .trisB, h =>
    injection h with h
    subst h
    rfl

end Sys2Proof.Machine
end

