-- ==== Sys2Proof/Proofs/MemoryFamily.lean ====
section
/-! PROOFS. The statements of the family 20_memory.md. -/

namespace Sys2Proof.Machine

/-- Settles O33: every step keeps the forms of the memories and the stack; and it leaves the processor
awake, or in SLEEP by its instruction, which sets TO and PD, or in SLEEP as it was. -/
theorem everyStepKeepsTheInvariant : Obligations.EveryStepKeepsTheInvariant := by
  intro s t hinv h
  obtain ⟨hgpr, hprog, hslots, hlive, htimePower, hresuming⟩ := hinv
  have hk := step_storageKept h
  obtain ⟨hslots', hlive'⟩ := hk.stack ⟨hslots, hlive⟩
  refine ⟨hk.gpr hgpr, hk.prog ▸ hprog, hslots', hlive', ?timePower, ?resuming⟩
  case timePower =>
    intro hs
    rcases step_sleeping_cases h with ha | ⟨htp, -⟩ | ⟨hsl, -, hst⟩
    · simp [ha] at hs
    · exact htp
    · rw [hst]
      exact htimePower (hsl ▸ hs)
  case resuming =>
    intro hr
    rcases step_sleeping_cases h with ha | ⟨-, hn⟩ | ⟨hsl, hres, -⟩
    · exact ha
    · simp [hn] at hr
    · rw [hsl]
      exact hresuming (hres ▸ hr)

/-- Settles O36: program memory and the configuration word are among what every step keeps. -/
theorem programMemoryAndConfigNeverChange : Obligations.ProgramMemoryAndConfigNeverChange :=
  fun _ _ h => ⟨(step_storageKept h).prog, (step_storageKept h).configWord⟩

/-- Settles O24: both accesses reach the byte of the location, whatever STATUS holds. -/
theorem banksShareGeneralPurposeBytes : Obligations.BanksShareGeneralPurposeBytes := by
  intro f s h h'
  have htarget := target_of_gpr_operand h h'
  have stored := writeDest_nextPc_stores f .f (plainResult s.w) s
  refine ⟨_, rfl, fun v => (fileRead_of_target (htarget _)).trans ?_⟩
  exact (stored.registers (.gpr f) (by simp) (by simp)).trans (if_pos ⟨rfl, (htarget s).symm⟩)

/-- Settles O25: the map has no register there. -/
theorem unimplementedReadsZeroIgnoresWrites : Obligations.UnimplementedReadsZeroIgnoresWrites := by
  intro a s h
  have hr := resolve_of_unimplemented a h
  rw [hr]
  refine ⟨rfl, fun v => rfl, fun f hf => ?_⟩
  have ht : target f s = .unimplemented := by rw [target, hf, hr]
  exact exec_movwf_of_ignored ht (by decide) fun _ _ => rfl

/-- Settles O26: operand 0 denotes what FSR points at, as any operand with that address does; INDF
itself holds nothing. -/
theorem indfRedirectsThroughFsr : Obligations.IndfRedirectsThroughFsr := by
  intro s
  refine ⟨ea_zero s, fun f _ hf d => ?redirect, fun h => ?itself⟩
  case redirect =>
    have ht : target 0 s = target f s := congrArg resolve ((ea_zero s).trans hf.symm)
    refine congrArg Host.Outcome.next ?_
    rw [fileRead_congr ht]
    exact readModifyStore_congr ht d _
  case itself =>
    have ht : target 0 s = .indf := target_of_location (n := 0) (by rwa [ea_zero]) (by decide)
    exact ⟨fileRead_of_target ht, exec_movwf_of_ignored ht (by decide) fun _ _ => rfl⟩

/-- Settles O37, from each operation with another program memory. -/
theorem executionIgnoresProgramMemory : Obligations.ExecutionIgnoresProgramMemory :=
  fun _ _ _ p h => exec_withProg h p

/-- Settles O40: the one byte an execution can write is its operand's. -/
theorem atMostTheOperandByteChanges : Obligations.AtMostTheOperandByteChanges := by
  intro i s l
  obtain ⟨t, h⟩ := exec_completes i s
  refine ⟨t, h, fun hne => ?_⟩
  rcases (exec_frame h).gpr with hg | ⟨f, l', v, hf, ht, hg⟩
  · rw [hg]
  · have hl : l.toNat ≠ l'.toNat := fun e => hne f hf (ht.trans (by rw [BitVec.eq_of_toNat_eq e]))
    rw [hg, memory_read_write_other _ v hl]

/-- Settles O22: RP0 alone of STATUS is in a direct address. -/
theorem directAddressUsesRp0Only : Obligations.DirectAddressUsesRp0Only := by
  intro f s
  refine ⟨eaDirect_toNat f s, fun v hv => ?_, fun hf => ea_of_ne_zero hf s⟩
  have hrp0 : (s.setStatus v).rp0 = s.rp0 := hv
  rw [eaDirect, eaDirect, hrp0]

/-- Settles O23, region by region. -/
theorem dataMapFollowsTheLocation : Obligations.DataMapFollowsTheLocation := by
  intro a
  refine ⟨fun h h' => ?_, fun h => resolve_of_unimplemented a (.inl h), fun h l => ?_,
    (resolve_eq_status_iff a).symm⟩
  · rw [resolve_of_gpr a h h', extract_location]
  · rw [resolve_of_lt a (by omega)]
    exact sfrMap_ne_gpr _ _ l

/-- Settles O31: an undisturbed boundary without SLEEP or interrupt entry runs the fetched instruction;
a quiet one is undisturbed; a fetched word is the listed one, or the unlisted value. -/
theorem stepRunsTheDecodedInstruction : Obligations.StepRunsTheDecodedInstruction := by
  refine ⟨fun s i ha hu he hd _ => ?runs, fun s hq => raised_quiet hq, fun s a hwf => ?fetched⟩
  case runs =>
    have hb : boundary s = .running (s.raised.setResuming false) := by
      rw [boundary_undisturbed hu, ha, he]
      rfl
    exact step_running hb hd
  case fetched =>
    simp only [Program.wf, cellsWf, Bool.and_eq_true] at hwf
    obtain ⟨⟨hrise, -⟩, -⟩ := hwf
    exact ⟨fun iw hm => cellRead_of_mem hrise hm, cellRead_of_not_mem⟩

end Sys2Proof.Machine
end

