-- ==== Sys2Proof/Proofs/EncodingFields.lean ====
section
/-! SUPPORT. The fields of an instruction word and the words of each format, as numbers
(30_encoding.md R61 to R66). -/

namespace Sys2Proof
open Machine (toNat_concat toNat_field)

/-! ## The fields of a word -/

/-- Bits 13:12, which select the decoder's group. -/
theorem group_toNat (iw : InstrWord) : (iw.extractLsb' 12 2).toNat = iw.toNat / 4096 := by
  rw [toNat_field]
  omega

/-- Bits 11:8, the opcode within the byte-oriented and the literal group. -/
theorem opcode_toNat (iw : InstrWord) : (iw.extractLsb' 8 4).toNat = iw.toNat / 256 % 16 :=
  toNat_field iw 8 4

/-- Bits 11:10, the opcode within the bit-oriented group. -/
theorem bitOpcode_toNat (iw : InstrWord) : (iw.extractLsb' 10 2).toNat = iw.toNat / 1024 % 4 :=
  toNat_field iw 10 2

/-- A bit of a word, by division. -/
theorem getLsbD_eq_true_iff (iw : InstrWord) (n : Nat) :
    iw.getLsbD n = true ↔ iw.toNat / 2 ^ n % 2 = 1 := by
  rw [BitVec.getLsbD, Nat.testBit_eq_decide_div_mod_eq, decide_eq_true_iff]

theorem fieldD_eq_f_iff (iw : InstrWord) : fieldD iw = .f ↔ iw.toNat / 128 % 2 = 1 := by
  refine Iff.trans ?_ (getLsbD_eq_true_iff iw 7)
  simp only [fieldD, ite_eq_left_iff, reduceCtorEq, imp_false, not_not]

theorem fieldD_eq_w_iff (iw : InstrWord) : fieldD iw = .w ↔ iw.toNat / 128 % 2 = 0 := by
  rw [← Nat.mod_two_ne_one, Ne, ← fieldD_eq_f_iff]
  cases fieldD iw <;> simp

/-- A word is determined by its number. -/
theorem eq_ofNat_of_toNat {iw : InstrWord} {n : Nat} (h : iw.toNat = n) :
    iw = BitVec.ofNat 14 n := by
  rw [← h, BitVec.ofNat_toNat, BitVec.setWidth_eq]

/-! ## The words of the four formats -/

section Formats

variable (op : BitVec 6) (f : FileAddr)

theorem byteWord_toNat (d : BitVec 1) :
    (byteWord op d f).toNat = op.toNat * 256 + d.toNat * 128 + f.toNat := by
  refine (toNat_concat (op ++ d) f).trans ?_
  rw [toNat_concat]
  omega

theorem bitWord_toNat (op : BitVec 4) (b : BitVec 3) :
    (bitWord op b f).toNat = op.toNat * 1024 + b.toNat * 128 + f.toNat := by
  refine (toNat_concat (op ++ b) f).trans ?_
  rw [toNat_concat]
  omega

theorem literalWord_toNat (k : Byte) : (literalWord op k).toNat = op.toNat * 256 + k.toNat :=
  toNat_concat op k

theorem jumpWord_toNat (op : BitVec 3) (k : BitVec 11) :
    (jumpWord op k).toNat = op.toNat * 2048 + k.toNat :=
  toNat_concat op k

@[simp] theorem fieldF_byteWord (d : BitVec 1) : fieldF (byteWord op d f) = f :=
  BitVec.extractLsb'_append_eq_right

@[simp] theorem fieldD_byteWord (d : Dest) : fieldD (byteWord op d.bit f) = d := by
  have hf := f.isLt
  cases d
  · rw [fieldD_eq_w_iff, byteWord_toNat, Dest.bit, BitVec.toNat_ofNat]
    omega
  · rw [fieldD_eq_f_iff, byteWord_toNat, Dest.bit, BitVec.toNat_ofNat]
    omega

@[simp] theorem fieldF_bitWord (op : BitVec 4) (b : BitVec 3) : fieldF (bitWord op b f) = f :=
  BitVec.extractLsb'_append_eq_right

@[simp] theorem fieldB_bitWord (op : BitVec 4) (b : BitVec 3) : fieldB (bitWord op b f) = b := by
  apply BitVec.eq_of_toNat_eq
  rw [fieldB, toNat_field, bitWord_toNat]
  omega

@[simp] theorem fieldK8_literalWord (k : Byte) : fieldK8 (literalWord op k) = k :=
  BitVec.extractLsb'_append_eq_right

@[simp] theorem fieldK11_jumpWord (op : BitVec 3) (k : BitVec 11) : fieldK11 (jumpWord op k) = k :=
  BitVec.extractLsb'_append_eq_right

end Formats

end Sys2Proof
end

