-- ==== Sys2Proof/Proofs/EncodingRows.lean ====
section
/-! SUPPORT. The rows of the opcode map as ranges of words, and the word and the operands of an
instruction in its row (30_encoding.md R66 to R70). -/

namespace Sys2Proof

/-! ## The words of a row -/

/-- A row that leaves open its low bits alone, as every row but NOP's does. -/
def OpcodeRow.LowOpen (r : OpcodeRow) : Prop :=
  ∃ n < 12, r.mask = BitVec.allOnes 14 <<< n ∧ 2 ^ n ∣ r.pattern.toNat

/-- How many words such a row has. -/
def OpcodeRow.words (r : OpcodeRow) : Nat := 0x4000 - r.mask.toNat

/-- The words of a row that leaves its low bits open are those with its pattern's high bits. -/
theorem OpcodeRow.matches_iff_of_lowOpen {r : OpcodeRow} (h : r.LowOpen) (iw : InstrWord) :
    r.matches iw = true ↔ iw.toNat / r.words = r.pattern.toNat / r.words := by
  obtain ⟨n, hn, hm, hp⟩ := h
  have hwords : r.words = 2 ^ n := by
    rw [OpcodeRow.words, hm]
    interval_cases n <;> rfl
  have hand : (iw &&& r.mask).toNat = iw.toNat / 2 ^ n * 2 ^ n := by
    rw [hm, ← BitVec.shiftLeft_ushiftRight, BitVec.toNat_shiftLeft, BitVec.toNat_ushiftRight,
      Nat.shiftRight_eq_div_pow, Nat.shiftLeft_eq, Nat.mod_eq_of_lt]
    exact (Nat.div_mul_le_self ..).trans_lt iw.isLt
  rw [hwords, OpcodeRow.matches, beq_iff_eq, ← BitVec.toNat_inj, hand, eq_comm,
    eq_comm (b := r.pattern.toNat / 2 ^ n), Nat.div_eq_iff_eq_mul_left (Nat.two_pow_pos n) hp]

theorem row_lowOpen {i : Instr} (h : i ≠ .nop) : i.row.LowOpen := by
  cases i
  case nop => exact absurd rfl h
  all_goals
    dsimp only [Instr.row, OpcodeRow.LowOpen]
    decide

theorem row_matches_iff {i : Instr} (h : i ≠ .nop) (iw : InstrWord) :
    i.row.matches iw = true ↔ iw.toNat / i.row.words = i.row.pattern.toNat / i.row.words :=
  OpcodeRow.matches_iff_of_lowOpen (row_lowOpen h) iw

/-- The words of NOP are 0x0000, 0x0020, 0x0040, 0x0060 (R68): its mask is that of the high seven
bits and of the low five. -/
theorem nop_row_matches_iff (iw : InstrWord) :
    Instr.nop.row.matches iw = true ↔ iw.toNat / 128 = 0 ∧ iw.toNat % 32 = 0 := by
  have hhigh : iw &&& 0x3F80#14 = 0#14 ↔ iw.toNat / 128 = 0 :=
    beq_iff_eq.symm.trans (OpcodeRow.matches_iff_of_lowOpen (r := ⟨0x3F80, 0⟩) ⟨7, by decide⟩ iw)
  have hlow : iw &&& 0x1F#14 = 0#14 ↔ iw.toNat % 32 = 0 := by
    rw [← BitVec.toNat_inj, BitVec.toNat_and]
    exact iff_of_eq (congrArg (· = 0) (Nat.and_two_pow_sub_one_eq_mod iw.toNat 5))
  calc Instr.nop.row.matches iw = true
    _ ↔ iw &&& (0x3F80#14 ||| 0x1F#14) = 0#14 := beq_iff_eq
    _ ↔ iw.toNat / 128 = 0 ∧ iw.toNat % 32 = 0 := by
      rw [BitVec.and_or_distrib_left, BitVec.or_eq_zero_iff, hhigh, hlow]

/-! ## The words of no row -/

/-- A number in the list of R69, less the three words of R70. -/
def ListedUnassigned (n : Nat) : Prop :=
  (1 ≤ n ∧ n ≤ 0x07) ∨ (0x0A ≤ n ∧ n ≤ 0x1F) ∨ (0x21 ≤ n ∧ n ≤ 0x3F) ∨ (0x41 ≤ n ∧ n ≤ 0x5F) ∨
    n = 0x61 ∨ (0x67 ≤ n ∧ n ≤ 0x7F) ∨ (0x3B00 ≤ n ∧ n ≤ 0x3BFF)

theorem not_listedUnassigned_of_row_matches {i : Instr} {iw : InstrWord}
    (h : i.row.matches iw = true) : ¬ ListedUnassigned iw.toNat := by
  unfold ListedUnassigned
  cases i
  case nop =>
    have hn := (nop_row_matches_iff iw).1 h
    omega
  all_goals
    replace h := (row_matches_iff (by nofun) iw).1 h
    simp [Instr.row, OpcodeRow.words] at h
    omega

/-! ## The operands in a word of the row -/

/-- The instruction of the same row with the operands a word's fields hold (R66). -/
def Instr.withFields (iw : InstrWord) : Instr → Instr
  | .addwf _ _ => .addwf (fieldF iw) (fieldD iw)
  | .andwf _ _ => .andwf (fieldF iw) (fieldD iw)
  | .clrf _ => .clrf (fieldF iw)
  | .clrw => .clrw
  | .comf _ _ => .comf (fieldF iw) (fieldD iw)
  | .decf _ _ => .decf (fieldF iw) (fieldD iw)
  | .decfsz _ _ => .decfsz (fieldF iw) (fieldD iw)
  | .incf _ _ => .incf (fieldF iw) (fieldD iw)
  | .incfsz _ _ => .incfsz (fieldF iw) (fieldD iw)
  | .iorwf _ _ => .iorwf (fieldF iw) (fieldD iw)
  | .movf _ _ => .movf (fieldF iw) (fieldD iw)
  | .movwf _ => .movwf (fieldF iw)
  | .nop => .nop
  | .rlf _ _ => .rlf (fieldF iw) (fieldD iw)
  | .rrf _ _ => .rrf (fieldF iw) (fieldD iw)
  | .subwf _ _ => .subwf (fieldF iw) (fieldD iw)
  | .swapf _ _ => .swapf (fieldF iw) (fieldD iw)
  | .xorwf _ _ => .xorwf (fieldF iw) (fieldD iw)
  | .bcf _ _ => .bcf (fieldF iw) (fieldB iw)
  | .bsf _ _ => .bsf (fieldF iw) (fieldB iw)
  | .btfsc _ _ => .btfsc (fieldF iw) (fieldB iw)
  | .btfss _ _ => .btfss (fieldF iw) (fieldB iw)
  | .addlw _ => .addlw (fieldK8 iw)
  | .andlw _ => .andlw (fieldK8 iw)
  | .call _ => .call (fieldK11 iw)
  | .clrwdt => .clrwdt
  | .goto _ => .goto (fieldK11 iw)
  | .iorlw _ => .iorlw (fieldK8 iw)
  | .movlw _ => .movlw (fieldK8 iw)
  | .retfie => .retfie
  | .retlw _ => .retlw (fieldK8 iw)
  | .ret => .ret
  | .sleep => .sleep
  | .sublw _ => .sublw (fieldK8 iw)
  | .xorlw _ => .xorlw (fieldK8 iw)
  | .option => .option
  | .trisA => .trisA
  | .trisB => .trisB

@[simp] theorem withFields_row (iw : InstrWord) (i : Instr) : (i.withFields iw).row = i.row := by
  cases i <;> rfl

/-- The assembler's word holds the instruction's operands in their fields. -/
@[simp] theorem withFields_encode (i : Instr) : i.withFields (encode i) = i := by
  cases i <;> simp [Instr.withFields, encode]

/-- The assembler's word is one of the instruction's row. -/
theorem encode_matches_row (i : Instr) : i.row.matches (encode i) = true := by
  cases i
  case nop => rfl
  case clrw | retfie | ret | sleep | clrwdt | option | trisA | trisB => decide
  all_goals
    refine (row_matches_iff (by nofun) _).2 ?_
    simp [encode, Instr.row, OpcodeRow.words, byteWord_toNat, bitWord_toNat, literalWord_toNat,
      jumpWord_toNat]
    omega

end Sys2Proof
end

