-- ==== Sys2Proof/Proofs/EncodingDecoder.lean ====
section
/-! SUPPORT. What the decoder answers for a word: by the branches of the decoder, and by the row the
word matches (30_encoding.md R67 to R70). -/

namespace Sys2Proof

/-! ## The four groups -/

section Groups

variable {iw : InstrWord}

theorem decode_byteGroup (h : iw.toNat / 4096 = 0) : decode iw = decodeByte iw := by
  simp only [decode, group_toNat, h]

theorem decode_bitGroup (h : iw.toNat / 4096 = 1) : decode iw = decodeBit iw := by
  simp only [decode, group_toNat, h]

theorem decode_jumpGroup (h : iw.toNat / 4096 = 2) : decode iw = decodeJump iw := by
  simp only [decode, group_toNat, h]

theorem decode_literalGroup (h : iw.toNat / 4096 = 3) : decode iw = decodeLiteral iw := by
  simp only [decode, group_toNat, h]

end Groups

/-! ## By the branches of the decoder -/

/-- The answers for a word: an instruction whose row it matches, or that it is a listed word. -/
inductive DecodeAnswer (iw : InstrWord) : Except DecodeError Instr → Prop
  | assigned {i : Instr} (h : i.row.matches iw = true) : DecodeAnswer iw (.ok i)
  | unassigned (h : ListedUnassigned iw.toNat) : DecodeAnswer iw (.error (.unassigned iw))

section Answers

variable {iw : InstrWord}

theorem DecodeAnswer.of_row {i : Instr} (hi : i ≠ .nop)
    (h : iw.toNat / i.row.words = i.row.pattern.toNat / i.row.words) : DecodeAnswer iw (.ok i) :=
  .assigned ((row_matches_iff hi iw).2 h)

theorem decodeControl_answer (h : iw.toNat / 128 = 0) : DecodeAnswer iw (decodeControl iw) := by
  have hlow : (iw.extractLsb' 0 7).toNat = iw.toNat := by
    rw [Machine.toNat_field]
    omega
  unfold decodeControl
  rw [hlow]
  split
  case h_12 =>
    simp only [imp_false] at *
    refine .unassigned ?_
    unfold ListedUnassigned
    omega
  iterate 4 exact .assigned ((nop_row_matches_iff iw).2 (by omega))
  all_goals exact .of_row nofun (by simp [Instr.row, OpcodeRow.words]; omega)

theorem decodeByte_answer (h : iw.toNat / 4096 = 0) : DecodeAnswer iw (decodeByte iw) := by
  unfold decodeByte
  rw [opcode_toNat]
  split
  case h_1 =>
    split
    case h_1 hd =>
      rw [fieldD_eq_f_iff] at hd
      exact .of_row nofun (by simp [Instr.row, OpcodeRow.words]; omega)
    case h_2 hd =>
      rw [fieldD_eq_w_iff] at hd
      exact decodeControl_answer (by omega)
  case h_2 =>
    split
    case h_1 hd =>
      rw [fieldD_eq_f_iff] at hd
      exact .of_row nofun (by simp [Instr.row, OpcodeRow.words]; omega)
    case h_2 hd =>
      rw [fieldD_eq_w_iff] at hd
      exact .of_row nofun (by simp [Instr.row, OpcodeRow.words]; omega)
  case h_17 =>
    simp only [imp_false] at *
    omega
  all_goals exact .of_row nofun (by simp [Instr.row, OpcodeRow.words]; omega)

theorem decodeBit_answer (h : iw.toNat / 4096 = 1) : DecodeAnswer iw (decodeBit iw) := by
  unfold decodeBit
  rw [bitOpcode_toNat]
  split
  case h_5 =>
    simp only [imp_false] at *
    omega
  all_goals exact .of_row nofun (by simp [Instr.row, OpcodeRow.words]; omega)

theorem decodeJump_answer (h : iw.toNat / 4096 = 2) : DecodeAnswer iw (decodeJump iw) := by
  simp only [decodeJump, getLsbD_eq_true_iff, Nat.reducePow]
  split
  all_goals exact .of_row nofun (by simp [Instr.row, OpcodeRow.words]; omega)

theorem decodeLiteral_answer (h : iw.toNat / 4096 = 3) : DecodeAnswer iw (decodeLiteral iw) := by
  unfold decodeLiteral
  rw [opcode_toNat]
  split
  case h_16 =>
    simp only [imp_false] at *
    refine .unassigned ?_
    unfold ListedUnassigned
    omega
  all_goals exact .of_row nofun (by simp [Instr.row, OpcodeRow.words]; omega)

end Answers

theorem decode_answer (iw : InstrWord) : DecodeAnswer iw (decode iw) := by
  have hgroup : iw.toNat / 4096 = 0 ∨ iw.toNat / 4096 = 1 ∨ iw.toNat / 4096 = 2 ∨
      iw.toNat / 4096 = 3 := by omega
  rcases hgroup with h | h | h | h
  · exact decode_byteGroup h ▸ decodeByte_answer h
  · exact decode_bitGroup h ▸ decodeBit_answer h
  · exact decode_jumpGroup h ▸ decodeJump_answer h
  · exact decode_literalGroup h ▸ decodeLiteral_answer h

theorem row_matches_of_decode {iw : InstrWord} {i : Instr} (h : decode iw = .ok i) :
    i.row.matches iw = true := by
  have ha := decode_answer iw
  rw [h] at ha
  cases ha with
  | assigned hm => exact hm

/-! ## By the row the word matches -/

/-- A word of a row decodes to the row's instruction with the operands of its fields, whatever its
don't-care bits are (R68). -/
theorem decode_of_row_matches {i : Instr} {iw : InstrWord} (h : i.row.matches iw = true) :
    decode iw = .ok (i.withFields iw) := by
  cases i
  case nop =>
    obtain ⟨hhigh, hlow⟩ := (nop_row_matches_iff iw).1 h
    have hword : iw.toNat = 0 ∨ iw.toNat = 0x20 ∨ iw.toNat = 0x40 ∨ iw.toNat = 0x60 := by omega
    rcases hword with hn | hn | hn | hn <;>
    · rw [eq_ofNat_of_toNat hn]
      rfl
  all_goals
    replace h := (row_matches_iff (by nofun) iw).1 h
    simp [Instr.row, OpcodeRow.words] at h
  case retfie | ret | sleep | clrwdt | option | trisA | trisB =>
    rw [eq_ofNat_of_toNat h]
    rfl
  case movwf | clrf =>
    have hop : iw.toNat / 256 % 16 = iw.toNat / 128 / 2 := by omega
    have hd : fieldD iw = .f := (fieldD_eq_f_iff iw).2 (by omega)
    rw [decode_byteGroup (by omega), decodeByte, opcode_toNat, hop, h, hd]
    rfl
  case clrw =>
    have hop : iw.toNat / 256 % 16 = iw.toNat / 128 / 2 := by omega
    have hd : fieldD iw = .w := (fieldD_eq_w_iff iw).2 (by omega)
    rw [decode_byteGroup (by omega), decodeByte, opcode_toNat, hop, h, hd]
    rfl
  case bcf | bsf | btfsc | btfss =>
    rw [decode_bitGroup (by omega), decodeBit, bitOpcode_toNat, h]
    rfl
  case call | goto =>
    rw [decode_jumpGroup (by omega), decodeJump]
    simp only [getLsbD_eq_true_iff, Nat.reducePow, h]
    rfl
  case andlw | iorlw | xorlw =>
    rw [decode_literalGroup (by omega), decodeLiteral, opcode_toNat, h]
    rfl
  -- ADDLW and SUBLW have one don't-care bit, MOVLW and RETLW two.
  case addlw | sublw =>
    have hop : iw.toNat / 256 % 16 = iw.toNat / 512 % 8 * 2 ∨
      iw.toNat / 256 % 16 = iw.toNat / 512 % 8 * 2 + 1 := by omega
    rw [decode_literalGroup (by omega), decodeLiteral, opcode_toNat]
    rcases hop with hop | hop <;>
    · rw [hop, h]
      rfl
  case movlw | retlw =>
    have hop : iw.toNat / 256 % 16 = iw.toNat / 1024 % 4 * 4 ∨
      iw.toNat / 256 % 16 = iw.toNat / 1024 % 4 * 4 + 1 ∨
      iw.toNat / 256 % 16 = iw.toNat / 1024 % 4 * 4 + 2 ∨
      iw.toNat / 256 % 16 = iw.toNat / 1024 % 4 * 4 + 3 := by omega
    rw [decode_literalGroup (by omega), decodeLiteral, opcode_toNat]
    rcases hop with hop | hop | hop | hop <;>
    · rw [hop, h]
      rfl
  -- What is left is the byte-oriented rows with a destination select.
  all_goals
    rw [decode_byteGroup (by omega), decodeByte, opcode_toNat, h]
    rfl

/-- The decoder reads back the assembler's word of every instruction. -/
theorem decode_encode (i : Instr) : decode (encode i) = .ok i := by
  rw [decode_of_row_matches (encode_matches_row i), withFields_encode]

end Sys2Proof
end

