-- ==== Sys2Proof/Proofs/EncodingFamily.lean ====
section
/-! PROOFS. The statements of the family 30_encoding.md. -/

namespace Sys2Proof

/-- Settles O57: every operand a constructor can hold is well-formed, so the hypothesis is not
needed. -/
theorem decodeOfEncodeIsTheInstruction : Obligations.DecodeOfEncodeIsTheInstruction :=
  fun i _ => decode_encode i

/-- Settles O58: a word matches no second row because it decodes by each row it matches. -/
theorem wordsDecodeByTheirOneRow : Obligations.WordsDecodeByTheirOneRow := by
  refine ⟨fun iw i hi j => ⟨fun hj => ?oneRow, fun hj => ?itsRow⟩,
    fun iw j hj => ⟨_, decode_of_row_matches hj, withFields_row iw j⟩⟩
  case oneRow =>
    obtain rfl : j.withFields iw = i := Except.ok.inj ((decode_of_row_matches hj).symm.trans hi)
    exact (withFields_row iw j).symm
  case itsRow =>
    rw [hj]
    exact row_matches_of_decode hi

/-- Settles O59: a listed word matches no row, so of the decoder's two answers it has the error. -/
theorem unassignedWordsAreTheListedOnes : Obligations.UnassignedWordsAreTheListedOnes := by
  intro iw
  change decode iw = .error (.unassigned iw) ↔ ListedUnassigned iw.toNat
  have ha := decode_answer iw
  generalize decode iw = answer at ha
  cases ha with
  | assigned h => exact ⟨nofun, fun hl => absurd hl (not_listedUnassigned_of_row_matches h)⟩
  | unassigned h => exact ⟨fun _ => h, fun _ => rfl⟩

/-- Settles O60: the words are the assembler's, but for RETLW's, whose don't-care bits are set. -/
theorem writtenOutWordsDecode : Obligations.WrittenOutWordsDecode :=
  ⟨decode_encode (.addwf 0x20 .f), decode_encode (.subwf 0x21 .w), decode_encode (.bsf 0x03 5),
    decode_encode (.btfss 0x20 7), decode_encode (.addlw 0x15),
    decode_of_row_matches (i := .retlw 0xFF) (by decide),
    decode_encode (.call 0x123), decode_encode (.goto 0x3FF)⟩

end Sys2Proof
end

