-- ==== Sys2Proof/Proofs/ByteResults.lean ====
section
/-! SUPPORT. The results of the arithmetic and of the rotations with their flags, as numbers
(40_byte_oriented.md R80, R81, R99 to R102). -/

namespace Sys2Proof.Machine

/-! ## Sums and differences -/

/-- The top bit says whether a number reaches the half of its range. -/
theorem getLsbD_top {n : Nat} (x : BitVec (n + 1)) : x.getLsbD n = decide (2 ^ n ≤ x.toNat) :=
  x.msb_eq_getLsbD_last.symm.trans x.msb_eq_decide

/-- A byte is zero iff its number is. -/
theorem beq_zero_eq_decide (r : Byte) : (r == 0) = decide (r.toNat = 0) :=
  Bool.beq_eq_decide_eq r 0 |>.trans (decide_eq_decide.2 BitVec.toNat_inj.symm)

/-- The sum with its carries. The nine bits hold the whole sum, the five bits that of the low
nibbles, so the carries are their top bits. -/
theorem sumWithCarries_eq (a b : Byte) (carryIn : Bool) :
    sumWithCarries a b carryIn =
      { value := BitVec.ofNat 8 (a.toNat + b.toNat + carryIn.toNat)
        flags :=
          { z := some (decide ((a.toNat + b.toNat + carryIn.toNat) % 256 = 0))
            dc := some (decide (16 ≤ a.toNat % 16 + b.toNat % 16 + carryIn.toNat))
            c := some (decide (256 ≤ a.toNat + b.toNat + carryIn.toNat)) } } := by
  have hc : carryIn.toNat ≤ 1 := carryIn.toNat_le
  have hsum : (a.setWidth 9 + b.setWidth 9 + (BitVec.ofBool carryIn).setWidth 9).toNat =
      a.toNat + b.toNat + carryIn.toNat := by
    simp
    omega
  have hlow : ((a.extractLsb' 0 4).setWidth 5 + (b.extractLsb' 0 4).setWidth 5 +
      (BitVec.ofBool carryIn).setWidth 5).toNat =
      a.toNat % 16 + b.toNat % 16 + carryIn.toNat := by
    simp
    omega
  have hvalue : (a.setWidth 9 + b.setWidth 9 + (BitVec.ofBool carryIn).setWidth 9).setWidth 8 =
      BitVec.ofNat 8 (a.toNat + b.toNat + carryIn.toNat) :=
    BitVec.eq_of_toNat_eq (by rw [BitVec.toNat_setWidth, hsum, BitVec.toNat_ofNat])
  simp only [sumWithCarries, getLsbD_top, hsum, hlow, hvalue, beq_zero_eq_decide,
    BitVec.toNat_ofNat, Nat.reducePow]

/-- `Add8` (40_byte_oriented.md R80). -/
theorem add8_eq (a b : Byte) : add8 a b =
    { value := BitVec.ofNat 8 (a.toNat + b.toNat)
      flags :=
        { z := some (decide ((a.toNat + b.toNat) % 256 = 0))
          dc := some (decide (16 ≤ a.toNat % 16 + b.toNat % 16))
          c := some (decide (256 ≤ a.toNat + b.toNat)) } } :=
  sumWithCarries_eq a b false

/-- `Sub8` (40_byte_oriented.md R81): the complement of `b` is 255 - b, so the carries of
a + (255 - b) + 1 are the not-borrows of a - b. -/
theorem sub8_eq (a b : Byte) : sub8 a b =
    { value := BitVec.ofNat 8 (256 + a.toNat - b.toNat)
      flags :=
        { z := some (decide (a.toNat = b.toNat))
          dc := some (decide (b.toNat % 16 ≤ a.toNat % 16))
          c := some (decide (b.toNat ≤ a.toNat)) } } := by
  have hnot : (~~~b).toNat = 255 - b.toNat := BitVec.toNat_not
  rw [sub8, sumWithCarries_eq, hnot, Bool.toNat_true,
    show a.toNat + (255 - b.toNat) + 1 = 256 + a.toNat - b.toNat by omega]
  congr 3 <;> simp only [decide_eq_decide] <;> omega

/-! ## Results that affect Z alone -/

/-- A result that affects Z alone, with what makes it zero. -/
theorem zResult_eq {r v : Byte} {p : Prop} [Decidable p] (hv : r = v) (hz : v = 0 ↔ p) :
    zResult r = { value := v, flags := { z := some (decide p) } } := by
  subst hv
  rw [zResult, FlagUpdate.zero, ← decide_eq_decide.2 hz, Bool.beq_eq_decide_eq]

/-- The one's complement (40_byte_oriented.md R90). -/
theorem not_eq_ofNat (x : Byte) : ~~~x = BitVec.ofNat 8 (255 - x.toNat) :=
  BitVec.eq_of_toNat_eq (by rw [BitVec.toNat_not, BitVec.toNat_ofNat]; omega)

/-- Counting up (40_byte_oriented.md R93). -/
theorem add_one_eq_ofNat (x : Byte) : x + 1 = BitVec.ofNat 8 (x.toNat + 1) :=
  BitVec.eq_of_toNat_eq (by simp)

/-- Counting down (40_byte_oriented.md R91). -/
theorem sub_one_eq_ofNat (x : Byte) : x - 1 = BitVec.ofNat 8 (x.toNat + 255) :=
  BitVec.eq_of_toNat_eq (by simp [BitVec.toNat_sub, Nat.add_comm])

/-! ## Rotations and the exchange of nibbles -/

/-- The rotation to the left (40_byte_oriented.md R99): twice the byte and the carry. -/
theorem rotateLeft_eq (v : Byte) (c : Bool) : rotateLeft v c =
    { value := BitVec.ofNat 8 (2 * v.toNat + c.toNat)
      flags := { c := some (decide (128 ≤ v.toNat)) } } := by
  have hvalue : v.extractLsb' 0 7 ++ BitVec.ofBool c = BitVec.ofNat 8 (2 * v.toNat + c.toNat) := by
    refine BitVec.eq_of_toNat_eq ((toNat_concat _ _).trans ?_)
    have hc : c.toNat ≤ 1 := c.toNat_le
    rw [toNat_field, BitVec.toNat_ofBool, BitVec.toNat_ofNat]
    omega
  rw [rotateLeft, hvalue, FlagUpdate.carry, getLsbD_top]
  rfl

/-- The rotation to the right (40_byte_oriented.md R100): half the byte, the carry above it. -/
theorem rotateRight_eq (v : Byte) (c : Bool) : rotateRight v c =
    { value := BitVec.ofNat 8 (v.toNat / 2 + 128 * c.toNat)
      flags := { c := some (decide (v.toNat % 2 = 1)) } } := by
  have hvalue : BitVec.ofBool c ++ v.extractLsb' 1 7 =
      BitVec.ofNat 8 (v.toNat / 2 + 128 * c.toNat) := by
    refine BitVec.eq_of_toNat_eq ((toNat_concat _ _).trans ?_)
    have hc : c.toNat ≤ 1 := c.toNat_le
    rw [toNat_field, BitVec.toNat_ofBool, BitVec.toNat_ofNat]
    omega
  rw [rotateRight, hvalue, FlagUpdate.carry, BitVec.getLsbD, Nat.testBit_zero]

/-- The exchange of nibbles (40_byte_oriented.md R102). -/
theorem swapNibbles_eq (v : Byte) :
    swapNibbles v = BitVec.ofNat 8 (v.toNat % 16 * 16 + v.toNat / 16) := by
  refine BitVec.eq_of_toNat_eq ((toNat_concat _ _).trans ?_)
  have hhigh : v.toNat / 16 < 16 := Nat.div_lt_of_lt_mul v.isLt
  simp only [toNat_field, BitVec.toNat_ofNat, Nat.reducePow, Nat.div_one, Nat.mod_eq_of_lt hhigh]
  omega

/-- A rotation to the left is undone by one to the right that takes in the bit that left. -/
theorem rotateRight_rotateLeft (v : Byte) (c : Bool) :
    rotateRight (rotateLeft v c).value (v.getLsbD 7) = { value := v, flags := .carry c } := by
  have hc : c.toNat ≤ 1 := c.toNat_le
  have hleft : (rotateLeft v c).value.toNat = (2 * v.toNat + c.toNat) % 256 := by
    rw [rotateLeft_eq, BitVec.toNat_ofNat]
  have htop : (v.getLsbD 7).toNat = v.toNat / 2 ^ 7 % 2 :=
    (BitVec.toNat_ofBool _).symm.trans (toNat_ofBool_getLsbD v 7)
  rw [rotateRight_eq, hleft, htop]
  congr
  · refine BitVec.eq_of_toNat_eq ?_
    rw [BitVec.toNat_ofNat]
    omega
  · cases c <;> simp

end Sys2Proof.Machine
end

