-- ==== Sys2Proof/Proofs/ByteRules.lean ====
section
/-! SUPPORT. The rules of a byte-oriented instruction, from the shape of its meaning
(40_byte_oriented.md R82 to R85), and what a result stored in a general-purpose byte leaves. -/

namespace Sys2Proof.Machine

/-! ## Cycles -/

/-- When the result goes to the program counter (40_byte_oriented.md R85). -/
theorem storesToPcl_iff (f : FileAddr) (d : Dest) (s : State) :
    storesToPcl f d s = true ↔ d = .f ∧ target f s = .pcl := by
  simp only [storesToPcl, Bool.and_eq_true, beq_iff_eq]

/-! ## The rules -/

section Rules

variable {i : FileAddr → Dest → Instr} {op : BitVec 6} {v : FileAddr → State → Byte}
  {z dc c : FileAddr → State → Option Bool} {r : FileAddr → State → AluResult}

/-- An instruction whose meaning is to store the result `r` after the read of `f`. Its word, its
meaning and its cycles are what the encoder, `exec` and `cycles` say by definition; `hr` says which
value and which flags the result has. -/
theorem fileRule_of_readModifyStore
    (hr : ∀ f s, r f s = { value := v f s, flags := { z := z f s, dc := dc f s, c := c f s } })
    (hword : ∀ f d, encode (i f d) = op ++ d.bit ++ f := by intros; rfl)
    (hexec : ∀ f d s, exec (i f d) s = .next (readModifyStore f d (r f s) s) := by intros; rfl)
    (hcycles : ∀ f d s, cycles (i f d) s = if storesToPcl f d s then 2 else 1 := by
      intros; rfl) :
    FileRule i op v z dc c := by
  intro f d s
  refine ⟨hword f d ▸ decode_encode (i f d), ⟨_, hexec f d s, ?stores⟩, ?cycles⟩
  case stores =>
    have stored := readModifyStore_stores f d (r f s) s
    simpa only [hr] using stored
  case cycles => simp only [hcycles, storesToPcl_iff]

/-- As `fileRule_of_readModifyStore`, for an instruction that also skips on a zero result. -/
theorem fileSkipRule_of_readModifyStoreSkip
    (hword : ∀ f d, encode (i f d) = op ++ d.bit ++ f := by intros; rfl)
    (hexec : ∀ f d s,
      exec (i f d) s = .next (readModifyStoreSkip f d (plainResult (v f s)) s) := by intros; rfl)
    (hcycles : ∀ f d s, cycles (i f d) s = if v f s == 0 || storesToPcl f d s then 2 else 1 := by
      intros; rfl) :
    FileSkipRule i op v := by
  intro f d s
  refine ⟨hword f d ▸ decode_encode (i f d), ⟨_, hexec f d s, ?stores⟩, ?cycles⟩
  case stores => exact readModifyStoreSkip_stores f d (plainResult (v f s)) s
  case cycles => simp only [hcycles, Bool.or_eq_true, beq_iff_eq, storesToPcl_iff]

end Rules

/-! ## The words of CLRW and NOP -/

/-- The words of CLRW, their seven don't-care bits as a number (30_encoding.md R68). -/
theorem clrwWord_toNat (x : BitVec 7) :
    BitVec.toNat (w := 14) (0b0000010#7 ++ x) = 256 + x.toNat :=
  toNat_concat 0b0000010#7 x

/-- The words of NOP, their two don't-care bits as a number (30_encoding.md R68). -/
theorem nopWord_toNat (x : BitVec 2) :
    BitVec.toNat (w := 14) (0b0000000#7 ++ x ++ 0b00000#5) = 32 * x.toNat := by
  refine (toNat_concat (0b0000000#7 ++ x) 0b00000#5).trans ?_
  rw [toNat_concat, BitVec.toNat_ofNat, BitVec.toNat_ofNat]
  omega

/-! ## A store without a read -/

/-- WriteDest uses no free value: nothing is read. -/
theorem writeDest_draws (f : FileAddr) (d : Dest) (r : AluResult) (s : State) :
    (writeDest f d r s).draws = s.draws := by
  cases d with
  | w => rfl
  | f =>
    by_cases ht : target f s = .status
    · rw [writeDest_of_status ht]
      rfl
    · obtain ⟨-, -, hdraws⟩ := writeReg_background (target f s) r.value s
      simpa only [writeDest, if_neg ht, setStatus_draws] using hdraws

/-! ## A result stored in a general-purpose byte -/

section Gpr

variable {f l : FileAddr} {s : State}

/-- The result is the byte, the flags are a side effect, and the read uses no free value. -/
theorem readModifyStore_of_gpr (h : target f s = .gpr l) (r : AluResult) :
    readModifyStore f .f r s =
      { s with pc := s.pc + 1, gpr := Memory.write s.gpr l.toNat r.value,
               status := r.flags.apply s.status } := by
  have hread : afterRead f s = s := by rw [afterRead, h]; rfl
  have ht : target f s.nextPc = .gpr l := h
  rw [readModifyStore, hread, writeDest, ht]
  rfl

/-- The operand still denotes the byte, because RP0 and FSR stay; it reads as the result. -/
theorem readModifyStore_of_gpr_leaves (h : target f s = .gpr l) (r : AluResult) :
    ∃ t, readModifyStore f .f r s = t ∧ target f t = .gpr l ∧ fileRead f t = r.value ∧
      t.status = r.flags.apply s.status := by
  have hrp0 : (r.flags.apply s.status).getLsbD 5 = s.status.getLsbD 5 :=
    apply_high_bit _ _ 5 (by decide)
  refine ⟨_, readModifyStore_of_gpr h r, ?_⟩
  have htarget : target f { s with pc := s.pc + 1, gpr := Memory.write s.gpr l.toNat r.value,
                                   status := r.flags.apply s.status } = .gpr l := by
    rw [← h]
    simp only [target, ea, eaDirect, eaIndirect, State.rp0, hrp0]
  exact ⟨htarget, (fileRead_of_target htarget).trans (memory_read_write_same ..), rfl⟩

end Gpr

/-! ## Carry alone -/

/-- Putting back the carry a STATUS byte had gives back the byte. -/
theorem apply_carry_restore (b : Bool) (st : Byte) :
    (FlagUpdate.carry (st.getLsbD 0)).apply ((FlagUpdate.carry b).apply st) = st :=
  byte_ext (apply_c ..) ((apply_dc ..).trans (apply_dc ..)) ((apply_z ..).trans (apply_z ..))
    fun i h _ => (apply_high_bit _ _ i h).trans (apply_high_bit _ _ i h)

end Sys2Proof.Machine
end

