-- ==== Sys2Proof/Proofs/ByteFamily.lean ====
section
/-! PROOFS. The statements of the family 40_byte_oriented.md. -/

namespace Sys2Proof.Machine

/-- Settles O1, from `Add8` as numbers. -/
theorem addwfStoresTheSum : Obligations.AddwfStoresTheSum :=
  fileRule_of_readModifyStore fun f s => add8_eq s.w (fileRead f s)

/-- Settles O2, from `Sub8` as numbers. -/
theorem subwfStoresTheDifference : Obligations.SubwfStoresTheDifference :=
  fileRule_of_readModifyStore fun f s => sub8_eq (fileRead f s) s.w

/-- Settles O3: a disjunction of bits is zero iff both bytes are, an exclusive one iff they
agree. -/
theorem logicWithWSetsZOnly : Obligations.LogicWithWSetsZOnly :=
  ⟨fileRule_of_readModifyStore fun _ _ => zResult_eq rfl Iff.rfl,
    fileRule_of_readModifyStore fun _ _ => zResult_eq rfl BitVec.or_eq_zero_iff,
    fileRule_of_readModifyStore fun _ _ => zResult_eq rfl BitVec.xor_eq_zero_iff⟩

/-- Settles O4: a complement is zero iff the byte is all ones. -/
theorem comfAndMovfSetZOnly : Obligations.ComfAndMovfSetZOnly := by
  refine ⟨fileRule_of_readModifyStore fun f s => ?comf,
    fileRule_of_readModifyStore fun _ _ => zResult_eq rfl Iff.rfl⟩
  case comf =>
    refine zResult_eq (not_eq_ofNat _) ?_
    bv_omega

/-- Settles O5: the count is zero iff it wrapped from 0xFF, or came down from 1. -/
theorem incfAndDecfSetZOnly : Obligations.IncfAndDecfSetZOnly := by
  refine ⟨fileRule_of_readModifyStore fun f s => ?incf,
    fileRule_of_readModifyStore fun f s => ?decf⟩
  case incf =>
    refine zResult_eq (add_one_eq_ofNat _) ?_
    bv_omega
  case decf =>
    refine zResult_eq (sub_one_eq_ofNat _) ?_
    bv_omega

/-- Settles O6: a destination PCL wins over the skip because the result is stored after it. -/
theorem countAndSkipOnZero : Obligations.CountAndSkipOnZero := by
  unfold Obligations.CountAndSkipOnZero
  simp only [← sub_one_eq_ofNat, ← add_one_eq_ofNat]
  exact ⟨fileSkipRule_of_readModifyStoreSkip, fileSkipRule_of_readModifyStoreSkip⟩

/-- Settles O7, from the rotations as numbers. -/
theorem rotatesGoThroughCarry : Obligations.RotatesGoThroughCarry :=
  ⟨fileRule_of_readModifyStore fun f s => rotateLeft_eq (fileRead f s) s.carry,
    fileRule_of_readModifyStore fun f s => rotateRight_eq (fileRead f s) s.carry⟩

/-- Settles O8, from the exchange of nibbles as a number. -/
theorem swapfExchangesNibbles : Obligations.SwapfExchangesNibbles :=
  fileRule_of_readModifyStore fun f s => congrArg plainResult (swapNibbles_eq (fileRead f s))

/-- Settles O9: both are WriteDest without a read before it. -/
theorem clrfAndMovwfStoreWithoutReading : Obligations.ClrfAndMovwfStoreWithoutReading := by
  intro f s
  have hcycles : (if storesToPcl f .f s then 2 else 1) = if target f s = .pcl then 2 else 1 := by
    simp only [storesToPcl_iff, true_and]
  exact ⟨decode_encode (.clrf f), decode_encode (.movwf f),
    ⟨_, rfl, writeDest_nextPc_stores f .f { value := 0, flags := { z := some true } } s,
      writeDest_draws f .f _ s.nextPc⟩,
    ⟨_, rfl, writeDest_nextPc_stores f .f (plainResult s.w) s, writeDest_draws f .f _ s.nextPc⟩,
    hcycles, hcycles⟩

/-- Settles O47: after RLF the operand still denotes its byte, which holds the rotated value, and
the carry is the bit that left; so RRF takes both back. -/
theorem rrfUndoesRlf : Obligations.RrfUndoesRlf := by
  intro f l s h
  obtain ⟨t, hrlf, htarget, hread, hstatus⟩ :=
    readModifyStore_of_gpr_leaves h (rotateLeft (fileRead f s) s.carry)
  obtain ⟨u, hrrf, -, hread', hstatus'⟩ :=
    readModifyStore_of_gpr_leaves htarget (rotateRight (fileRead f t) t.carry)
  have hcarry : t.carry = (fileRead f s).getLsbD 7 := by
    rw [State.carry, hstatus]
    exact apply_c ..
  have hright : rotateRight (fileRead f t) t.carry =
      { value := fileRead f s, flags := .carry s.carry } := by
    rw [hread, hcarry, rotateRight_rotateLeft]
  rw [hright] at hread' hstatus'
  refine ⟨t, u, congrArg Host.Outcome.next hrlf, congrArg Host.Outcome.next hrrf, hread', ?_⟩
  rw [hstatus', hstatus]
  exact apply_carry_restore _ s.status

/-- Settles O10: CLRW leaves its low seven bits open, NOP bits 6:5. -/
theorem clrwAndNopTouchNoFileRegister : Obligations.ClrwAndNopTouchNoFileRegister := by
  intro s
  refine ⟨fun x => decode_of_row_matches (i := .clrw) ?clrw,
    fun x => decode_of_row_matches (i := .nop) ?nop,
    ⟨_, rfl, storeW_stores _ s⟩, rfl, rfl, rfl⟩
  case clrw =>
    refine (row_matches_iff (by nofun) _).2 ?_
    rw [clrwWord_toNat]
    simp [Instr.row, OpcodeRow.words]
    omega
  case nop =>
    refine (nop_row_matches_iff _).2 ?_
    rw [nopWord_toNat]
    omega

end Sys2Proof.Machine
end

