-- ==== Sys2Proof/Proofs/BitRules.lean ====
section
/-! SUPPORT. One bit of a byte as a number, and the rules of a bit-oriented instruction, from the
shape of its meaning (41_bit_oriented.md R110 to R114). -/

namespace Sys2Proof.Machine

/-! ## One bit of a byte -/

section Bits

variable (v : Byte) (b : BitVec 3)

theorem bitMask_toNat : (bitMask b).toNat = 2 ^ b.toNat := by
  have hpow : 2 ^ b.toNat < 2 ^ 8 := Nat.pow_lt_pow_right (by decide) b.isLt
  rw [bitMask, BitVec.toNat_shiftLeft, Nat.shiftLeft_eq]
  simpa using Nat.mod_eq_of_lt hpow

/-- What the mask leaves of a byte: the weight of bit `b` if it is set, else nothing. -/
theorem and_bitMask_toNat :
    (v &&& bitMask b).toNat = (v.getLsbD b.toNat).toNat * 2 ^ b.toNat := by
  rw [BitVec.toNat_and, bitMask_toNat, Nat.and_two_pow, BitVec.getLsbD]

/-- A byte is its bit `b` and the others, which share none, so clearing the bit takes away its
weight (41_bit_oriented.md R111). -/
theorem clearBit_eq :
    clearBit v b = BitVec.ofNat 8 (v.toNat - (v.getLsbD b.toNat).toNat * 2 ^ b.toNat) := by
  have hdisjoint : clearBit v b &&& (v &&& bitMask b) = 0#8 := by
    ext i
    cases h : (bitMask b)[i] <;> simp [clearBit, h]
  have hsplit : clearBit v b + (v &&& bitMask b) = v := by
    rw [BitVec.add_eq_or_of_and_eq_zero _ _ hdisjoint]
    ext i
    cases h : (bitMask b)[i] <;> simp [clearBit, h]
  have hle : v &&& bitMask b ≤ v := by
    rw [BitVec.le_def, BitVec.toNat_and]
    exact Nat.and_le_left
  calc clearBit v b
      = v - (v &&& bitMask b) := BitVec.eq_sub_iff_add_eq.2 hsplit
    _ = BitVec.ofNat 8 (v.toNat - (v &&& bitMask b).toNat) :=
        BitVec.eq_of_toNat_eq (by rw [BitVec.toNat_sub_of_le hle, BitVec.toNat_ofNat]; omega)
    _ = _ := by rw [and_bitMask_toNat]

/-- Setting bit `b` adds its weight unless the byte has it (41_bit_oriented.md R112). -/
theorem setBit_eq :
    setBit v b = BitVec.ofNat 8 (v.toNat + (!v.getLsbD b.toNat).toNat * 2 ^ b.toNat) := by
  have hdisjoint : v &&& (~~~v &&& bitMask b) = 0#8 := by
    rw [← BitVec.and_assoc, BitVec.and_not_self]
    exact BitVec.zero_and
  have hnot : (~~~v).getLsbD b.toNat = !v.getLsbD b.toNat := by simp [b.isLt]
  calc setBit v b
      = v ||| (~~~v &&& bitMask b) := by
        ext i
        cases h : v[i] <;> simp [setBit, h]
    _ = v + (~~~v &&& bitMask b) := (BitVec.add_eq_or_of_and_eq_zero _ _ hdisjoint).symm
    _ = BitVec.ofNat 8 (v.toNat + (~~~v &&& bitMask b).toNat) :=
        BitVec.eq_of_toNat_eq (by rw [BitVec.toNat_add, BitVec.toNat_ofNat])
    _ = _ := by rw [and_bitMask_toNat, hnot]

end Bits

/-! ## The rules -/

section Rules

variable {i : FileAddr → BitVec 3 → Instr} {op : BitVec 4}

/-- An instruction whose meaning is to read `f` and store back the byte `r` makes of it. `hr` says
which byte that is; the word, the meaning and the cycles are what the encoder, `exec` and `cycles`
say by definition. -/
theorem bitWriteRule_of_readModifyStore {v : FileAddr → BitVec 3 → State → Byte}
    {r : Byte → BitVec 3 → Byte} (hr : ∀ f b s, r (fileRead f s) b = v f b s)
    (hword : ∀ f b, encode (i f b) = op ++ b ++ f := by intros; rfl)
    (hexec : ∀ f b s,
      exec (i f b) s = .next (readModifyStore f .f (plainResult (r (fileRead f s) b)) s) := by
        intros; rfl)
    (hcycles : ∀ f b s, cycles (i f b) s = if storesToPcl f .f s then 2 else 1 := by
      intros; rfl) :
    BitWriteRule i op v := by
  intro f b s
  refine ⟨hword f b ▸ decode_encode (i f b), ⟨_, hexec f b s, ?stores⟩, ?cycles⟩
  case stores =>
    rw [← hr]
    exact readModifyStore_stores f .f (plainResult (r (fileRead f s) b)) s
  case cycles => simp only [hcycles, storesToPcl_iff, true_and]

/-- An instruction whose meaning is the read of `f` and a skip when `skips` holds of the byte;
`hskips` says that it does when bit `b` has the value `on`. The skip alone makes the second
cycle. -/
theorem bitTestRule_of_skipIf {on : Bool} {skips : Byte → BitVec 3 → Bool}
    (hskips : ∀ v b, skips v b = true ↔ v.getLsbD b.toNat = on)
    (hword : ∀ f b, encode (i f b) = op ++ b ++ f := by intros; rfl)
    (hexec : ∀ f b s,
      exec (i f b) s = .next ((afterRead f s).skipIf (skips (fileRead f s) b)) := by intros; rfl)
    (htaken : ∀ f b s, skipTaken (i f b) s = skips (fileRead f s) b := by intros; rfl)
    (hstays : ∀ f b s, transfersControl (i f b) = false ∧ modifiesPcl (i f b) s = false := by
      intros; exact ⟨rfl, rfl⟩) :
    BitTestRule i op on := by
  intro f b s
  obtain ⟨n, hread⟩ := afterRead_eq f s
  refine ⟨hword f b ▸ decode_encode (i f b), ⟨n, ?next⟩, ?cycles⟩
  case next =>
    simp only [hexec, hread, State.skipIf, hskips]
    rfl
  case cycles =>
    obtain ⟨hcontrol, hpcl⟩ := hstays f b s
    simp only [cycles, hcontrol, hpcl, htaken, Bool.false_or, Bool.or_false, hskips]

end Rules

end Sys2Proof.Machine
end

