-- ==== Sys2Proof/Proofs/BitFamily.lean ====
section
/-! PROOFS. The statements of the family 41_bit_oriented.md. -/

namespace Sys2Proof.Machine

/-- Settles O11, from the byte with a bit cleared or set as a number. -/
theorem bcfAndBsfWriteTheWholeByte : Obligations.BcfAndBsfWriteTheWholeByte :=
  ⟨bitWriteRule_of_readModifyStore fun f b s => clearBit_eq (fileRead f s) b,
    bitWriteRule_of_readModifyStore fun f b s => setBit_eq (fileRead f s) b⟩

/-- Settles O12: BTFSC skips on the complement of the bit, BTFSS on the bit. -/
theorem bitTestsSkipAndWriteNothing : Obligations.BitTestsSkipAndWriteNothing := by
  refine ⟨bitTestRule_of_skipIf (skips := fun v b => !testBit v b) ?btfsc,
    bitTestRule_of_skipIf (skips := testBit) ?btfss⟩
  case btfsc => exact fun _ _ => (Bool.not_eq_true' _).to_iff
  case btfss => exact fun _ _ => Iff.rfl

end Sys2Proof.Machine
end

