-- ==== Sys2Proof/Proofs/LiteralRules.lean ====
section
/-! SUPPORT. The word of a literal operation with its don't-care bits, the rule of a literal
operation from the shape of its meaning, and what each control operation answers, field by field
(42_literal_control.md). -/

namespace Sys2Proof.Machine

/-! ## The words of the literal operations -/

/-- The row of the literal operation `i` is given by its opcode: below `op` it leaves open `m`
don't-care bits and the literal, which is the operand (30_encoding.md R67, R68). For a
concrete operation each clause is what the opcode map says by definition. -/
structure LiteralRow {n : Nat} (i : Byte → Instr) (op : BitVec n) (m : Nat) : Prop where
  ne_nop : ∀ k, i k ≠ .nop := by nofun
  words : ∀ k, (i k).row.words = 256 * 2 ^ m := by simp [Instr.row, OpcodeRow.words]
  pattern : ∀ k, (i k).row.pattern.toNat = op.toNat * (256 * 2 ^ m) := by simp [Instr.row]
  operand : ∀ k iw, (i k).withFields iw = i (fieldK8 iw) := by intros; rfl

section Words

variable {n m : Nat} (h : n + m + 8 = 14) (op : BitVec n) (x : BitVec m) (k : Byte)

/-- The word of a literal operation, its don't-care bits `x` between opcode and literal
(30_encoding.md R68), as a number. -/
theorem dontCareWord_toNat :
    ((op ++ x ++ k).cast h).toNat = (op.toNat * 2 ^ m + x.toNat) * 256 + k.toNat := by
  rw [BitVec.toNat_cast, toNat_concat, toNat_concat]
  rfl

theorem fieldK8_dontCareWord : fieldK8 ((op ++ x ++ k).cast h) = k := by
  refine BitVec.eq_of_toNat_eq ?_
  rw [fieldK8, toNat_field, dontCareWord_toNat]
  omega

/-- Without its literal and its don't-care bits the word is its opcode. -/
theorem dontCareWord_toNat_div :
    ((op ++ x ++ k).cast h).toNat / (256 * 2 ^ m) = op.toNat := by
  have hliteral : ((op.toNat * 2 ^ m + x.toNat) * 256 + k.toNat) / 256 =
      op.toNat * 2 ^ m + x.toNat := by omega
  rw [dontCareWord_toNat, ← Nat.div_div_eq_div_mul, hliteral, Nat.mul_comm,
    Nat.mul_add_div (Nat.two_pow_pos m), Nat.div_eq_of_lt x.isLt, Nat.add_zero]

/-- A row given by its opcode decodes to its instruction for every value of the don't-care bits. -/
theorem LiteralRow.decode_eq {i : Byte → Instr} (hrow : LiteralRow i op m) :
    decode ((op ++ x ++ k).cast h) = .ok (i k) := by
  have hmatch : (i k).row.matches ((op ++ x ++ k).cast h) = true := by
    rw [row_matches_iff (hrow.ne_nop k), hrow.words, hrow.pattern, dontCareWord_toNat_div,
      Nat.mul_div_cancel _ (by positivity)]
  rw [decode_of_row_matches hmatch, hrow.operand, fieldK8_dontCareWord]

end Words

/-- RETLW's word, its two don't-care bits with any value. -/
theorem decode_retlw (x : BitVec 2) (k : Byte) : decode (0b1101#4 ++ x ++ k) = .ok (.retlw k) :=
  LiteralRow.decode_eq rfl 0b1101#4 x k (i := .retlw) {}

/-! ## The rule of a literal operation -/

/-- An instruction whose meaning is to leave the result `r` in W. `hr` says which value and which
flags the result has; the meaning, the row and the cycle are what `exec`, the opcode map and
`cycles` say by definition. -/
theorem literalRule_of_storeW {n m : Nat} {h : n + m + 8 = 14} {i : Byte → Instr} {op : BitVec n}
    {v : Byte → State → Byte} {z dc c : Byte → State → Option Bool} {r : Byte → State → AluResult}
    (hr : ∀ k s, r k s = { value := v k s, flags := { z := z k s, dc := dc k s, c := c k s } })
    (hexec : ∀ k s, exec (i k) s = .next (storeW (r k s) s) := by intros; rfl)
    (hrow : LiteralRow i op m := by exact {})
    (hcycles : ∀ k s, cycles (i k) s = 1 := by intros; rfl) :
    LiteralRule n m h i op v z dc c := by
  intro k x s
  refine ⟨hrow.decode_eq h op x k, ⟨_, hexec k s, ?stores⟩, hcycles k s⟩
  case stores => simpa only [hr] using storeW_stores (r k s) s

/-! ## Jumps and the return stack -/

/-- The target of CALL and GOTO as a number (42_literal_control.md R135). -/
theorem jumpTarget_eq (k : BitVec 11) (s : State) :
    jumpTarget k s = BitVec.ofNat 13 (s.pclath.toNat / 8 * 2048 + k.toNat) := by
  refine BitVec.eq_of_toNat_eq ((toNat_concat _ k).trans ?_)
  rw [toNat_field, BitVec.toNat_ofNat]
  omega

theorem exec_goto (k : BitVec 11) (s : State) :
    exec (.goto k) s =
      .next { s with pc := BitVec.ofNat 13 (s.pclath.toNat / 8 * 2048 + k.toNat) } := by
  rw [← jumpTarget_eq]
  rfl

theorem exec_call (k : BitVec 11) (s : State) :
    exec (.call k) s =
      .next { s with pc := BitVec.ofNat 13 (s.pclath.toNat / 8 * 2048 + k.toNat),
                     stack := s.stack.push (s.pc + 1) } := by
  rw [← jumpTarget_eq]
  rfl

theorem exec_ret (s : State) :
    exec .ret s = .next { s with pc := s.stack.top, stack := s.stack.pop } := rfl

theorem exec_retlw (k : Byte) (s : State) :
    exec (.retlw k) s = .next { s with pc := s.stack.top, stack := s.stack.pop, w := k } := rfl

theorem exec_retfie (s : State) :
    exec .retfie s = .next { s with pc := s.stack.top, stack := s.stack.pop,
                                    intcon := intconWithGie true s.intcon } :=
  congrArg Host.Outcome.next (returnFromInterrupt_eq s)

/-- Under the invariant a pop of a live entry leaves the entries below it (10_state.md R19). -/
theorem State.Inv.entries_eq_top_cons_pop {s : State} (hinv : s.Inv) (h : 0 < s.stack.live) :
    s.stack.entries = s.stack.top :: s.stack.pop.entries := by
  obtain ⟨-, -, hslots, hlive, -⟩ := hinv
  exact Machine.entries_eq_top_cons_pop hslots hlive h

/-! ## The watchdog, TO and PD -/

/-- TO and PD set by the hardware leave the other six bits of STATUS. -/
theorem statusTimePower_other (timeOut powerDown : Bool) (st : Byte) {i : Nat} (h4 : i ≠ 4)
    (h3 : i ≠ 3) : (statusTimePower timeOut powerDown st).getLsbD i = st.getLsbD i := by
  rw [statusTimePower_eq, join_getLsbD]
  split
  case isTrue hflag =>
    rw [BitVec.getLsbD_extractLsb', Nat.zero_add, decide_eq_true hflag, Bool.true_and]
  case isFalse hflag =>
    rw [if_neg (by omega), BitVec.getLsbD_extractLsb', show 5 + (i - 5) = i by omega]
    by_cases hbank : i < 8
    · rw [decide_eq_true (by omega), Bool.true_and]
    · rw [BitVec.getLsbD_of_ge st i (by omega), Bool.and_false]

theorem exec_clrwdt (s : State) :
    exec .clrwdt s =
      .next { s with pc := s.pc + 1, wdt := 0, status := statusTimePower true true s.status,
                     prescaler := if s.optionReg.getLsbD 3 then 0 else s.prescaler } := rfl

theorem exec_sleep (s : State) :
    exec .sleep s =
      .next { s with pc := s.pc + 1, wdt := 0, sleeping := true,
                     status := statusTimePower true false s.status,
                     prescaler := if s.optionReg.getLsbD 3 then 0 else s.prescaler } := rfl

/-! ## OPTION and TRIS -/

/-- The five bits a five-bit register takes of a byte. -/
theorem extract_five_eq_ofNat (v : Byte) : v.extractLsb' 0 5 = BitVec.ofNat 5 v.toNat :=
  BitVec.eq_of_toNat_eq (by rw [toNat_field, BitVec.toNat_ofNat, Nat.pow_zero, Nat.div_one])

theorem exec_option (s : State) :
    exec .option s = .next { s with
      pc := s.pc + 1, optionReg := s.w, outputs := ⟨.optionReg, s.w⟩ :: s.outputs } := rfl

theorem exec_trisA (s : State) :
    exec .trisA s = .next { s with
      pc := s.pc + 1, trisA := BitVec.ofNat 5 s.w.toNat,
      outputs := ⟨.trisA, s.w⟩ :: s.outputs } := by
  rw [← extract_five_eq_ofNat]
  rfl

theorem exec_trisB (s : State) :
    exec .trisB s = .next { s with
      pc := s.pc + 1, trisB := s.w, outputs := ⟨.trisB, s.w⟩ :: s.outputs } := rfl

end Sys2Proof.Machine
end

