-- ==== Sys2Proof/Proofs/LiteralFamily.lean ====
section
/-! PROOFS. The statements of the family 42_literal_control.md. -/

namespace Sys2Proof.Machine

/-- Settles O13, from `Add8` and `Sub8` as numbers. -/
theorem addlwAndSublwSetAllFlags : Obligations.AddlwAndSublwSetAllFlags :=
  ⟨literalRule_of_storeW fun k s => add8_eq s.w k,
    literalRule_of_storeW fun k s => sub8_eq k s.w⟩

/-- Settles O14: a disjunction of bits is zero iff both bytes are, an exclusive one iff they
agree. -/
theorem logicLiteralsAndMovlw : Obligations.LogicLiteralsAndMovlw :=
  ⟨literalRule_of_storeW fun _ _ => zResult_eq rfl Iff.rfl,
    literalRule_of_storeW fun _ _ => zResult_eq rfl BitVec.or_eq_zero_iff,
    literalRule_of_storeW fun _ _ => zResult_eq rfl BitVec.xor_eq_zero_iff,
    literalRule_of_storeW (r := fun k _ => plainResult k) fun _ _ => rfl⟩

/-- Settles O15, from the target as a number. -/
theorem gotoLoadsElevenBitsAndPclath : Obligations.GotoLoadsElevenBitsAndPclath :=
  fun k s => ⟨decode_encode (.goto k), exec_goto k s, rfl⟩

/-- Settles O16, from the target as a number and the entries after a push. -/
theorem callPushesTheReturnAddress : Obligations.CallPushesTheReturnAddress :=
  fun k s => ⟨decode_encode (.call k),
    ⟨_, exec_call k s, rfl, push_top (s.pc + 1) s.stack, push_entries_of_lt (s.pc + 1)⟩, rfl⟩

/-- Settles O17, from the entries after a pop. -/
theorem returnsPopTheStack : Obligations.ReturnsPopTheStack :=
  fun k x s => ⟨decode_encode .ret, decode_retlw x k,
    ⟨_, exec_ret s, rfl, exec_retlw k s, State.Inv.entries_eq_top_cons_pop⟩, rfl, rfl⟩

/-- Settles O18, from the bits of INTCON with GIE replaced and the entries after a pop. -/
theorem retfieReturnsAndSetsGie : Obligations.RetfieReturnsAndSetsGie :=
  fun s => ⟨decode_encode .retfie,
    ⟨_, exec_retfie s, rfl, intconWithGie_gie true s.intcon, intconWithGie_other true s.intcon,
      State.Inv.entries_eq_top_cons_pop⟩, rfl⟩

/-- Settles O46: the popped top is the pushed return address, and a pop undoes a push. -/
theorem returnUndoesCall : Obligations.ReturnUndoesCall := by
  intro k a s hinv hlive
  obtain ⟨-, -, hslots, -⟩ := hinv
  refine ⟨_, _, exec_call k s, exec_ret _, pop_push_entries (s.pc + 1) hslots hlive, ?_⟩
  simp only [push_top]

/-- Settles O19, from the bits of STATUS with TO and PD set. -/
theorem clrwdtClearsWatchdogSetsToPd : Obligations.ClrwdtClearsWatchdogSetsToPd :=
  fun s => ⟨decode_encode .clrwdt,
    ⟨_, exec_clrwdt s, rfl, statusTimePower_to s.status true true,
      statusTimePower_pd s.status true true, fun _ => statusTimePower_other true true s.status⟩, rfl⟩

/-- Settles O20, as O19 with PD clear. -/
theorem sleepStopsWithToSetPdClear : Obligations.SleepStopsWithToSetPdClear :=
  fun s => ⟨decode_encode .sleep,
    ⟨_, exec_sleep s, rfl, statusTimePower_to s.status true false,
      statusTimePower_pd s.status true false, fun _ => statusTimePower_other true false s.status⟩,
    rfl⟩

/-- Settles O21, from what each of the three instructions answers. -/
theorem optionAndTrisCopyW : Obligations.OptionAndTrisCopyW :=
  fun s => ⟨decode_encode .option, decode_encode .trisA, decode_encode .trisB, exec_option s,
    exec_trisA s, exec_trisB s, rfl, rfl, rfl⟩

end Sys2Proof.Machine
end

