-- ==== Sys2Proof/Proofs/ExceptionBoundary.lean ====
section
/-! SUPPORT. What a boundary makes of the state: the flags the events set, the pins, an undisturbed
boundary, and the instruction after a wake-up (60_exceptions.md R143 to R161). -/

namespace Sys2Proof.Machine

/-! ## The flags the events set -/

section Flags

variable (e : EnvInput) (asleep : Bool) (s : State)

theorem raiseFlags_rbif :
    (raiseFlags e asleep s).intcon.getLsbD 0 = (s.intcon.getLsbD 0 || e.portBChange) := by
  refine (getLsbD_concat _ _ 0).trans ?_
  simp

theorem raiseFlags_intf :
    (raiseFlags e asleep s).intcon.getLsbD 1 = (s.intcon.getLsbD 1 || e.intEdge) := by
  refine (getLsbD_concat _ _ 1).trans ?_
  rw [getLsbD_concat]
  simp

theorem raiseFlags_t0if :
    (raiseFlags e asleep s).intcon.getLsbD 2 =
      (s.intcon.getLsbD 2 || (e.tmr0Overflow && !asleep)) := by
  refine (getLsbD_concat _ _ 2).trans ?_
  rw [getLsbD_concat, getLsbD_concat]
  simp

theorem raiseFlags_eeif :
    (raiseFlags e asleep s).eecon1.getLsbD 4 = (s.eecon1.getLsbD 4 || e.eepromDone) := by
  refine (getLsbD_concat _ _ 4).trans ?_
  simp [State.eeif]

/-- A time-out sets no flag of its own. -/
theorem raiseFlags_timeout : raiseFlags { wdtTimeout := true } asleep s = s :=
  raiseFlags_quiet asleep s

end Flags

/-- The boundary leaves GIE to interrupt entry and to resets. -/
theorem raised_gie (s : State) : s.raised.gie = s.gie :=
  raiseFlags_intcon_high s.input s.sleeping s.driven 7 (by decide)

/-- A time-out alone uses itself up. -/
theorem driven_timeout {s : State} (h : s.input = { wdtTimeout := true }) :
    s.driven = s.setEnv s.env.tail := by
  simp [State.driven, h, State.setEnv]

/-! ## The state a boundary ends in -/

/-- The state a boundary hands on, however it ends. -/
def Boundary.state : Boundary → State
  | .settled s => s
  | .entering s => s
  | .running s => s

/-- An instruction cut short leaves the pins (10_state.md R27). -/
theorem instructionCut_pins (s : State) :
    s.instructionCut.pinsA = s.pinsA ∧ s.instructionCut.pinsB = s.pinsB := by
  unfold State.instructionCut
  split
  · exact ⟨rfl, rfl⟩
  · split
    · obtain ⟨-, hpinsA, hpinsB, -⟩ := cutShort_background (writtenBy _) s
      exact ⟨hpinsA, hpinsB⟩
    · exact ⟨rfl, rfl⟩

theorem deviceReset_pins (kind : ResetKind) (s : State) :
    (deviceReset kind s).pinsA = s.pinsA ∧ (deviceReset kind s).pinsB = s.pinsB := by
  cases kind <;> exact ⟨rfl, rfl⟩

theorem raisedReset_pins (r : ResetEvent) (s : State) :
    (raisedReset r s).pinsA = s.pinsA ∧ (raisedReset r s).pinsB = s.pinsB := by
  cases r with
  | powerOn | external => exact deviceReset_pins _ s
  | externalCut =>
    obtain ⟨hresetA, hresetB⟩ := deviceReset_pins .external s.instructionCut
    obtain ⟨hcutA, hcutB⟩ := instructionCut_pins s
    exact ⟨hresetA.trans hcutA, hresetB.trans hcutB⟩

/-- The pins after a boundary are what ENV drives, also where it resets or wakes (10_state.md R27). -/
theorem boundary_pins (s : State) :
    (boundary s).state.pinsA = s.driven.pinsA ∧ (boundary s).state.pinsB = s.driven.pinsB := by
  rcases boundary_cases s with ⟨r, -, hb⟩ | ⟨-, ⟨-, -, hb⟩ | ⟨-, -, -, hb⟩ | ⟨-, -, -, hb⟩ |
    ⟨-, -, hb⟩ | ⟨-, -, -, hb⟩ | ⟨-, -, -, hb⟩⟩ <;> rw [hb]
  · exact raisedReset_pins r s.driven
  iterate 3 exact ⟨rfl, rfl⟩
  · exact deviceReset_pins .watchdog s.driven
  iterate 2 exact ⟨rfl, rfl⟩

/-- An undisturbed boundary changes nothing but what ENV gives there, and whether the processor sleeps
or has just been woken. -/
theorem boundary_state_undisturbed {s : State} (h : s.Undisturbed) :
    (boundary s).state =
      { s.raised with sleeping := (boundary s).state.sleeping,
                      resuming := (boundary s).state.resuming } := by
  rw [boundary_undisturbed h]
  split
  · split <;> rfl
  · split <;> rfl

/-! ## What runs at an undisturbed boundary -/

/-- A boundary after which the machine goes to fetch. -/
theorem step_of_boundary_running {s u : State} (h : boundary s = .running u) :
    step s = runInstruction u := by
  simp [step, h]

/-- An undisturbed boundary while executing, no interrupt entry due. -/
theorem boundary_running_undisturbed {s : State} (h : s.Undisturbed) (ha : s.sleeping = false)
    (he : s.raised.entersInterrupt = false) :
    boundary s = .running (s.raised.setResuming false) := by
  simp [boundary_undisturbed h, ha, he]

/-- The step after `t` has been woken runs the instruction at pc, that after SLEEP, whether an
interrupt is due or not (60_exceptions.md R161, log entry 16). What is fetched is what `s`, the state
before the wake-up, has at pc. -/
theorem step_of_resuming {s t : State} {i : Instr} (hpc : t.pc = s.pc) (hprog : t.prog = s.prog)
    (ha : t.sleeping = false) (hr : t.resuming = true) (hu : t.Undisturbed)
    (hd : decode (progRead s.pc s) = .ok i) : step t = exec i { t.raised with resuming := false } := by
  have hwoken : t.raised.resuming = true := hr
  have he : t.raised.entersInterrupt = false := by simp [State.entersInterrupt, hwoken]
  rw [progRead, ← hpc, ← hprog] at hd
  exact step_running (boundary_running_undisturbed hu ha he) hd

/-- Two undisturbed boundaries at which ENV gives the same end alike. -/
theorem step_congr_of_raised {s t : State} (hs : s.Undisturbed) (ht : t.Undisturbed)
    (hsleeping : s.sleeping = t.sleeping) (h : s.raised = t.raised) : step s = step t := by
  have hb : boundary s = boundary t := by
    rw [boundary_undisturbed hs, boundary_undisturbed ht, hsleeping, h]
  simp only [step, hb]

/-! ## Interrupt requests and GIE -/

/-- `request` of 60_exceptions.md R144: an enable bit and its flag. -/
theorem interruptRequest_iff (s : State) :
    s.interruptRequest = true ↔
      (s.intcon.getLsbD 5 ∧ s.intcon.getLsbD 2) ∨ (s.intcon.getLsbD 4 ∧ s.intcon.getLsbD 1) ∨
        (s.intcon.getLsbD 3 ∧ s.intcon.getLsbD 0) ∨
        (s.intcon.getLsbD 6 ∧ s.eecon1.getLsbD 4) := by
  simp only [State.interruptRequest, State.eeif, Bool.or_eq_true, Bool.and_eq_true, or_assoc]

/-- Without GIE no interrupt is taken. -/
theorem takesInterrupt_of_not_gie {s : State} (h : s.gie = false) : s.takesInterrupt = false := by
  rw [State.takesInterrupt, h, Bool.false_and]

/-- Clearing GIE and setting it again gives back INTCON, where it was set. -/
theorem intconWithGie_restore {v : Byte} (h : v.getLsbD 7 = true) :
    intconWithGie true (intconWithGie false v) = v := by
  apply BitVec.eq_of_getLsbD_eq
  intro i hi
  by_cases h7 : i < 7
  · rw [intconWithGie_other _ _ i h7, intconWithGie_other _ _ i h7]
  · obtain rfl : i = 7 := by omega
    rw [intconWithGie_gie, h]

/-! ## The watchdog -/

/-- Everything the wake-up by a time-out does (60_exceptions.md R154). -/
theorem watchdogWake_eq (s : State) :
    watchdogWake s =
      { s with sleeping := false, resuming := true, wdt := 0,
               status := statusTimePower false (s.status.getLsbD 3) s.status,
               prescaler := if s.optionReg.getLsbD 3 then 0 else s.prescaler } := rfl

/-- A wake-up by a time-out clears TO and leaves the other bits of STATUS, PD among them. -/
theorem timeOut_getLsbD_other (st : Byte) {j : Nat} (h : j ≠ 4) :
    (statusTimePower false (st.getLsbD 3) st).getLsbD j = st.getLsbD j := by
  by_cases h3 : j = 3
  · subst h3
    exact statusTimePower_pd st false (st.getLsbD 3)
  · exact statusTimePower_other false (st.getLsbD 3) st h h3

/-- INTCON after a reset: RBIF alone stays (70_reset_and_hazards.md R172). -/
theorem resetCommon_intcon (kind : ResetKind) (s : State) :
    (resetCommon kind s).intcon = BitVec.ofNat 8 (s.intcon.toNat % 2) := by
  refine BitVec.eq_of_toNat_eq ((toNat_concat 0#7 _).trans ?_)
  rw [toNat_field, BitVec.toNat_ofNat]
  simp
  omega

/-- STATUS = 0000 1uuu after a watchdog reset (70_reset_and_hazards.md R173). -/
theorem watchdogReset_status (s : State) :
    (deviceReset .watchdog s).status = BitVec.ofNat 8 (8 + s.status.toNat % 8) := by
  refine BitVec.eq_of_toNat_eq ((join_toNat 0#3 0b01#2 _).trans ?_)
  rw [toNat_field, BitVec.toNat_ofNat]
  simp
  omega

end Sys2Proof.Machine
end

