-- ==== Sys2Proof/Proofs/ExceptionProfiles.lean ====
section
/-! SUPPORT. What an execution can do to the stack, INTCON and ENV, the two profiles, and what the
default one refuses (60_exceptions.md R163, R164). -/

namespace Sys2Proof.Machine

/-! ## The stack, INTCON and ENV in an execution -/

/-- What an execution can do to ENV, INTCON and the stack: ENV it leaves, GIE is set by RETFIE, else
INTCON changes only as the destination; CALL pushes, the three returns pop. -/
structure ControlFrame (i : Instr) (s t : State) : Prop where
  env : t.env = s.env
  intcon : i ≠ .retfie → (∀ f, (writtenBy i).file = some f → target f s ≠ .intcon) →
    t.intcon = s.intcon
  stack : t.stack = s.stack ∨ (∃ k a, i = .call k ∧ t.stack = s.stack.push a) ∨
    ((i = .ret ∨ (∃ k, i = .retlw k) ∨ i = .retfie) ∧ t.stack = s.stack.pop)

variable {i : Instr} {s t u : State}

/-- An execution that stores a result. -/
theorem ControlFrame.of_stores {f : FileAddr} {d : Dest} {v : Byte} {z dc c : Option Bool}
    {next : ProgAddr} (hw : d = .f → (writtenBy i).file = some f)
    (h : Stores f d v z dc c next s t) : ControlFrame i s t := by
  obtain ⟨hstack, -, -, -, -, -, -, -, henv⟩ := h.background
  refine ⟨henv, fun _ hd => ?_, .inl hstack⟩
  exact (h.registers .intcon (by decide) (by decide)).trans
    (if_neg fun e => hd f (hw e.1) e.2.symm)

theorem exec_controlFrame (h : exec i s = .next t) : ControlFrame i s t := by
  rcases exec_cases h with ⟨f, d, r, -, hw, rfl⟩ | ⟨f, d, r, -, hw, rfl⟩ | ⟨f, r, -, hw, rfl⟩ |
    ⟨f, b, -, rfl⟩ | ⟨r, rfl⟩ | ⟨-, rfl⟩ | ⟨k, -, rfl⟩ | ⟨k, hcall, rfl⟩ | ⟨hret, rfl⟩ |
    ⟨k, hretlw, rfl⟩ | ⟨hretfie, rfl⟩ | ⟨-, rfl⟩ | ⟨-, rfl⟩ | ⟨-, rfl⟩ | ⟨-, rfl⟩ | ⟨-, rfl⟩
  · exact .of_stores hw (readModifyStore_stores f d r s)
  · exact .of_stores hw (readModifyStoreSkip_stores f d r s)
  · exact .of_stores (fun _ => hw) (writeDest_nextPc_stores f .f r s)
  · obtain ⟨n, hn⟩ := afterRead_eq f s
    rw [hn]
    exact ⟨rfl, fun _ _ => rfl, .inl rfl⟩
  -- Literal operations, NOP and GOTO.
  iterate 3 exact ⟨rfl, fun _ _ => rfl, .inl rfl⟩
  · exact ⟨rfl, fun _ _ => rfl, .inr (.inl ⟨k, _, hcall, rfl⟩)⟩
  · exact ⟨rfl, fun _ _ => rfl, .inr (.inr ⟨.inl hret, rfl⟩)⟩
  · exact ⟨rfl, fun _ _ => rfl, .inr (.inr ⟨.inr (.inl ⟨k, hretlw⟩), rfl⟩)⟩
  · exact ⟨rfl, fun hne => absurd hretfie hne, .inr (.inr ⟨.inr (.inr hretfie), rfl⟩)⟩
  -- CLRWDT, SLEEP, OPTION and TRIS.
  iterate 5 exact ⟨rfl, fun _ _ => rfl, .inl rfl⟩

/-! ## The conservative profile -/

/-- Under the conservative profile the boundary is undisturbed: ENV raises no reset, and WDTE = 0. -/
theorem State.Conservative.undisturbed (h : s.Conservative) : s.Undisturbed := by
  obtain ⟨hwdte, henv, -⟩ := h
  refine ⟨?_, by rw [State.timesOut, hwdte, Bool.and_false]⟩
  unfold State.input
  cases hl : s.env with
  | nil => rfl
  | cons e l => exact henv e (by simp [hl])

theorem State.Conservative.raised_eq (h : s.Conservative) :
    s.raised = raiseFlags s.input false s.driven := by
  obtain ⟨-, -, -, hsleeping, -⟩ := h
  rw [State.raised, hsleeping]

/-- The boundary stays in the profile: it uses up an input of ENV and leaves GIE and WDTE. -/
theorem State.Conservative.kept_by_boundary (h : s.Conservative) : s.raised.Conservative := by
  obtain ⟨hwdte, henv, hgie, hsleeping, hresuming⟩ := h
  exact ⟨hwdte, fun e he => henv e (List.mem_of_mem_tail he), (raised_gie s).trans hgie, hsleeping,
    hresuming⟩

/-- Under the conservative profile every boundary lets the instruction at pc run. -/
theorem State.Conservative.boundary_eq (h : s.Conservative) : boundary s = .running s.raised := by
  obtain ⟨-, -, hgie, -, hresuming⟩ := h.kept_by_boundary
  have he : s.raised.entersInterrupt = false := by
    rw [State.entersInterrupt, takesInterrupt_of_not_gie hgie, Bool.false_and]
  have hu := h.undisturbed
  obtain ⟨-, -, -, hsleeping, -⟩ := h
  rw [boundary_running_undisturbed hu hsleeping he, setResuming_eq_self hresuming]

/-- An execution stays in the profile unless it sets GIE, writes INTCON or enters SLEEP. -/
theorem State.Conservative.kept_by_exec (h : s.Conservative) (he : exec i s = .next t)
    (hretfie : i ≠ .retfie) (hsleep : i ≠ .sleep)
    (hd : ∀ f, (writtenBy i).file = some f → target f s ≠ .intcon) : t.Conservative := by
  obtain ⟨hwdte, henv, hgie, hsleeping, hresuming⟩ := h
  have hc := exec_controlFrame he
  have hf := exec_frame he
  have hasleep : t.sleeping = s.sleeping := hf.sleeping.resolve_right fun hs => hsleep hs.1
  refine ⟨?_, ?_, ?_, hasleep.trans hsleeping, hf.resuming.trans hresuming⟩
  · rwa [State.wdte, hf.configWord]
  · rwa [hc.env]
  · rwa [State.gie, hc.intcon hretfie hd]

/-! ## What the machine refuses -/

/-- The decoder's error carries the word. -/
theorem decode_error_word {iw : InstrWord} {e : DecodeError} (h : decode iw = .error e) :
    e = .unassigned iw := by
  have ha := decode_answer iw
  rw [h] at ha
  cases ha
  rfl

/-- The boundary before a fetch leaves pc, program memory and the stack. -/
theorem boundary_running_leaves (h : boundary s = .running u) :
    u.pc = s.pc ∧ u.prog = s.prog ∧ u.stack = s.stack := by
  obtain ⟨-, -, -, -, rfl⟩ := boundary_running_cases h
  exact ⟨rfl, rfl, rfl⟩

/-- Every step answers a next state, or it fetches a word that is no instruction and is refused
(60_exceptions.md R140, R141). -/
theorem step_next_or_refused (s : State) : (∃ t, step s = .next t) ∨
    ∃ u, boundary s = .running u ∧ fetch u = .error (.unassigned (progRead s.pc s)) ∧
      step s = .refused (.unassignedWord (progRead s.pc s)) := by
  cases hb : boundary s with
  | settled t => exact .inl ⟨t, step_settled hb⟩
  | entering u => exact .inl ⟨_, step_entering hb⟩
  | running u =>
    cases hf : fetch u with
    | ok i =>
      obtain ⟨t, ht⟩ := exec_completes i u
      exact .inl ⟨t, (step_running hb hf).trans ht⟩
    | error e =>
      obtain ⟨-, -, hfetch, -⟩ := boundary_running_keeps hb
      obtain rfl := decode_error_word (hfetch ▸ hf)
      exact .inr ⟨u, rfl, hf, step_unassigned hb hf⟩

/-! ## What the default profile refuses -/

/-- The row of PCL: an operand that resolves to it. -/
theorem refusedByDefault_of_operand {f : FileAddr} (h : fileOperand i = some f) (s : State) :
    refusedByDefault i s = if target f s = .pcl then some .pclAccess else none := by
  have hrow : refusedByDefault i s =
      if (fileOperand i).any fun f => target f s == .pcl then some .pclAccess else none := by
    cases i <;> cases h <;> rfl
  rw [hrow, h, Option.any_some]
  simp only [beq_iff_eq]

/-- The default profile executes what neither leaves the bounds of the stack nor is OPTION or TRIS nor
reaches PCL. -/
theorem refusedByDefault_eq_none (hsafe : stackSafe i s) (hoption : i ≠ .option)
    (htrisA : i ≠ .trisA) (htrisB : i ≠ .trisB)
    (hpcl : ∀ f, fileOperand i = some f → target f s ≠ .pcl) : refusedByDefault i s = none := by
  cases hf : fileOperand i with
  | some f => rw [refusedByDefault_of_operand hf, if_neg (hpcl f hf)]
  | none =>
    cases i with
    | call _ | ret | retlw _ | retfie => exact if_pos hsafe
    | option => exact absurd rfl hoption
    | trisA => exact absurd rfl htrisA
    | trisB => exact absurd rfl htrisB
    | clrw | nop | addlw _ | andlw _ | clrwdt | goto _ | iorlw _ | movlw _ | sleep | sublw _
    | xorlw _ => rfl
    | _ => cases hf

/-- Where the fetched word is no instruction the profile has nothing of its own to refuse. -/
theorem defaultRefusal_unassigned {e : DecodeError} (h : boundary s = .running u)
    (hf : fetch u = .error e) : s.defaultRefusal = none := by
  simp [State.defaultRefusal, h, hf]

/-- The profile refuses an instruction it does not execute. -/
theorem defaultStep_running {r : DefaultRefusal} (h : boundary s = .running u)
    (hf : fetch u = .ok i) (hr : refusedByDefault i u = some r) : defaultStep s = .refused r :=
  defaultStep_refused ((defaultRefusal_running h hf).trans hr)

/-- What the profile does not refuse is the machine's step. -/
theorem defaultStep_of_next (h : s.defaultRefusal = none) (hs : step s = .next t) :
    defaultStep s = .next t := by
  simp [defaultStep, h, hs]

/-- What the machine refuses the profile refuses. -/
theorem defaultStep_of_refused {r : Refusal} (h : step s = .refused r) :
    defaultStep s = .refused (.ofStep r) := by
  rcases step_next_or_refused s with ⟨t, ht⟩ | ⟨u, hb, hf, -⟩
  · rw [ht] at h
    cases h
  · simp [defaultStep, defaultRefusal_unassigned hb hf, h]

/-! ## The entries of the stack under the default profile -/

/-- The entries of the return stack stay, or one is pushed, or one is popped. -/
def Stack.MovesByOne (k k' : Stack) : Prop :=
  k'.entries = k.entries ∨ (∃ v, k'.entries = v :: k.entries) ∨ ∃ v, k.entries = v :: k'.entries

/-- An instruction within the bounds of the stack moves at most one entry (10_state.md R19). -/
theorem exec_movesByOne (h : exec i s = .next t) (hsafe : stackSafe i s)
    (hk : s.stack.EightSlots) : s.stack.MovesByOne t.stack := by
  rcases (exec_controlFrame h).stack with hs | ⟨k, a, rfl, hs⟩ | ⟨hpops, hs⟩ <;> rw [hs]
  · exact .inl rfl
  · exact .inr (.inl ⟨a, push_entries_of_lt a hsafe⟩)
  · have hlive : 0 < s.stack.live := by rcases hpops with rfl | ⟨k, rfl⟩ | rfl <;> exact hsafe
    exact .inr (.inr ⟨_, entries_eq_top_cons_pop hk.1 hk.2 hlive⟩)

/-- A reset empties the stack (70_reset_and_hazards.md R172). -/
theorem deviceReset_entries (kind : ResetKind) (s : State) :
    (deviceReset kind s).stack.entries = [] := by
  obtain ⟨-, -, -, hlive, -⟩ := deviceReset_leaves kind s
  rw [Stack.entries, hlive, List.take_zero]

theorem raisedReset_entries (r : ResetEvent) (s : State) :
    (raisedReset r s).stack.entries = [] := by
  cases r with
  | powerOn | external => exact deviceReset_entries _ s
  | externalCut => exact deviceReset_entries .external s.instructionCut

/-- A boundary that settles leaves the stack, or it resets and the stack is empty. -/
theorem boundary_settled_stack (h : boundary s = .settled t) :
    t.stack = s.stack ∨ t.stack.entries = [] := by
  rcases boundary_settled_cases h with ⟨r, -, rfl⟩ | ⟨-, ⟨-, -, rfl⟩ | ⟨-, -, -, rfl⟩ |
    ⟨-, -, -, rfl⟩ | ⟨-, -, rfl⟩⟩
  · exact .inr (raisedReset_entries r s.driven)
  iterate 3 exact .inl rfl
  · exact .inr (deviceReset_entries .watchdog s.driven)

/-- A step of the default profile never pushes on a full stack nor pops an empty one. -/
theorem defaultStep_stack (h : defaultStep s = .next t) (hk : s.stack.EightSlots) :
    s.stack.MovesByOne t.stack ∨ t.stack.entries = [] := by
  obtain ⟨hnot, hstep⟩ := defaultStep_next h
  rcases step_cases hstep with hb | ⟨u, hb, rfl⟩ | ⟨u, i, hb, hf, he⟩
  · exact (boundary_settled_stack hb).imp_left fun hs => .inl (congrArg Stack.entries hs)
  · rw [defaultRefusal_entering hb] at hnot
    obtain ⟨-, -, -, -, rfl⟩ := boundary_entering_cases hb
    rcases pushRefusal_cases s.stack with ⟨hlive, -⟩ | ⟨-, hr⟩
    · exact .inl (.inr (.inl ⟨s.pc, push_entries_of_lt s.pc hlive⟩))
    · exact absurd (hr.symm.trans hnot) (by simp)
  · rw [defaultRefusal_running hb hf] at hnot
    obtain ⟨-, -, hstack⟩ := boundary_running_leaves hb
    rw [← hstack] at hk ⊢
    exact .inl (exec_movesByOne he (stackSafe_of_not_refused hnot) hk)

end Sys2Proof.Machine
end

