-- ==== Sys2Proof/Proofs/ExceptionFamily.lean ====
section
/-! PROOFS. The statements of the family 60_exceptions.md. -/

namespace Sys2Proof.Machine

/-- Settles O32: the machine's one refusal is at the fetch; what the default profile refuses and what
it executes, row by row. -/
theorem onlyUnassignedWordsAreRefused : Obligations.OnlyUnassignedWordsAreRefused := by
  refine ⟨fun s => ?machine, fun s t h => ?accepted, fun s r => defaultStep_of_refused,
    fun s u hb hfull => ?entry, fun s u i hb hf => ⟨?call, ?returns, ?optionTris, ?pcl⟩,
    fun s t hs hentry hrun => ?nothingElse⟩
  case machine =>
    refine (step_next_or_refused s).imp_right fun ⟨u, hb, hf, hr⟩ => ?_
    obtain ⟨hpc, hprog, -⟩ := boundary_running_leaves hb
    exact ⟨u, _, hb, hpc, hprog, hf, rfl, hr⟩
  case accepted =>
    refine ⟨(defaultStep_next h).2, fun ⟨_, _, hslots, hlive, _⟩ => ?_⟩
    rcases defaultStep_stack h ⟨hslots, hlive⟩ with (hsame | hpush | hpop) | hempty
    · exact .inl hsame
    · exact .inr (.inl hpush)
    · exact .inr (.inr (.inl hpop))
    · exact .inr (.inr (.inr hempty))
  case entry =>
    exact defaultStep_refused ((defaultRefusal_entering hb).trans (if_neg (Nat.not_lt.2 hfull)))
  case call =>
    rintro k rfl hfull
    exact defaultStep_running hb hf (if_neg (Nat.not_lt.2 hfull))
  case returns =>
    intro hi hempty
    have hpop : u.stack.popRefusal = some .stackUnderflow := if_neg (by omega)
    rcases hi with rfl | ⟨k, rfl⟩ | rfl <;> exact defaultStep_running hb hf hpop
  case optionTris => rintro (rfl | rfl | rfl) <;> exact defaultStep_running hb hf rfl
  case pcl =>
    intro f hfile ht
    exact defaultStep_running hb hf ((refusedByDefault_of_operand hfile u).trans (if_pos ht))
  case nothingElse =>
    refine defaultStep_of_next ?_ hs
    rcases step_cases hs with hb | ⟨u, hb, -⟩ | ⟨u, i, hb, hf, -⟩
    · exact defaultRefusal_settled hb
    · exact (defaultRefusal_entering hb).trans (if_pos (hentry u hb))
    · obtain ⟨hsafe, hoption, htrisA, htrisB, hpcl⟩ := hrun u i hb hf
      exact (defaultRefusal_running hb hf).trans
        (refusedByDefault_eq_none hsafe hoption htrisA htrisB hpcl)

/-- Settles O39: a boundary only wakes or leaves SLEEPING, and of the executions SLEEP alone sets
it. -/
theorem onlySleepEntersSleep : Obligations.OnlySleepEntersSleep := by
  intro s t h ha hs
  rcases step_cases h with hb | ⟨u, hb, rfl⟩ | ⟨u, i, hb, hf, he⟩
  · rcases boundary_settled_cases hb with ⟨r, -, rfl⟩ | ⟨-, ⟨hs', -⟩ | ⟨hs', -⟩ | ⟨hs', -⟩ |
      ⟨-, -, rfl⟩⟩
    · have hawake := raisedReset_awake r s.driven
      exact absurd (hawake.symm.trans hs) Bool.false_ne_true
    iterate 3 exact absurd (ha.symm.trans hs') Bool.false_ne_true
    · exact absurd hs Bool.false_ne_true
  · obtain ⟨-, -, -, -, rfl⟩ := boundary_entering_cases hb
    exact absurd (ha.symm.trans hs) Bool.false_ne_true
  · obtain ⟨-, -, hfetch, -⟩ := boundary_running_keeps hb
    obtain ⟨-, -, -, -, rfl⟩ := boundary_running_cases hb
    rcases (exec_frame he).sleeping with hsame | ⟨rfl, -⟩
    · exact absurd (ha.symm.trans (hsame.symm.trans hs)) Bool.false_ne_true
    · exact hfetch ▸ hf

/-- Settles O44: the boundary keeps the profile and lets the instruction run, whose execution keeps it
too. -/
theorem conservativeStepIsAnInstruction : Obligations.ConservativeStepIsAnInstruction := by
  intro s h
  have hstep : step s = runInstruction s.raised := step_of_boundary_running h.boundary_eq
  obtain ⟨-, -, hgie, -⟩ := h.kept_by_boundary
  rw [← h.raised_eq]
  refine ⟨takesInterrupt_of_not_gie hgie, hstep, fun henv => ?quiet,
    fun i hd hretfie hsleep hfile => ?kept⟩
  case quiet =>
    have hq : s.EnvQuiet := by rw [State.EnvQuiet, State.input, henv]; rfl
    obtain ⟨-, hraised⟩ := raised_quiet hq
    have hsame : s.raised = s := by
      rw [hraised, henv, List.tail_nil, ← henv]
      rfl
    rw [hstep, hsame]
  case kept =>
    obtain ⟨t, ht⟩ := exec_completes i s.raised
    exact ⟨t, (step_running h.boundary_eq hd).trans ht,
      h.kept_by_boundary.kept_by_exec ht hretfie hsleep hfile⟩

/-- Settles O48: the request with GIE makes entry due, which clears GIE. -/
theorem interruptEntryPushesPcClearsGie : Obligations.InterruptEntryPushesPcClearsGie := by
  intro s ha hr hu hgie hrequest
  have hawake : s.raised.resuming = false := hr
  have he : s.raised.entersInterrupt = true := by
    rw [State.entersInterrupt, State.takesInterrupt, State.gie, hgie,
      (interruptRequest_iff s.raised).2 hrequest, hawake]
    rfl
  have hb : boundary s = .entering s.raised := by simp [boundary_undisturbed hu, ha, he]
  have hcleared := intconWithGie_gie false s.raised.intcon
  exact ⟨_, step_entering hb, interruptEntry_eq s.raised, hcleared,
    intconWithGie_other false s.raised.intcon, takesInterrupt_of_not_gie hcleared⟩

/-- Settles O49: the popped top is the pushed pc, a pop undoes a push, and GIE is set again. -/
theorem retfieUndoesInterruptEntry : Obligations.RetfieUndoesInterruptEntry := by
  intro s a hinv hlive hgie
  obtain ⟨-, -, hslots, -⟩ := hinv
  refine ⟨_, exec_retfie _, pop_push_entries s.pc hslots hlive, ?_⟩
  simp only [interruptEntry_eq, push_top, intconWithGie_restore hgie]

/-- Settles O50: of the undisturbed boundary in SLEEP, the end without a request. -/
theorem sleepHoldsUntilAWakeEvent : Obligations.SleepHoldsUntilAWakeEvent := by
  intro s hs hu hrequest
  have hb : boundary s = .settled s.raised := by simp [boundary_undisturbed hu, hs, hrequest]
  exact step_settled hb

/-- Settles O51: the request wakes, and a processor just woken runs an instruction. -/
theorem interruptWakesWhateverGieIs : Obligations.InterruptWakesWhateverGieIs := by
  intro s hs hu hrequest
  have hb : boundary s = .settled s.raised.wake := by
    simp [boundary_undisturbed hu, hs, hrequest]
  exact ⟨_, step_settled hb, rfl,
    fun _ hu' => step_of_resuming rfl rfl rfl rfl hu'⟩

/-- Settles O52: with WDTE = 0 the boundary is as a quiet one; else it is a watchdog reset, or in SLEEP
a wake-up. -/
theorem watchdogTimeoutResetsOrWakes : Obligations.WatchdogTimeoutResetsOrWakes := by
  intro s hin
  have hreset : s.input.reset = none := by rw [hin]
  have htimesOut : s.timesOut = s.configWord.getLsbD 2 := by
    rw [State.timesOut, hin, Bool.true_and, State.wdte]
  refine ⟨fun hwdte => ?ignored, fun hwdte ha => ?resets, fun hwdte hs => ?wakes⟩
  case ignored =>
    obtain ⟨hquiet, hraised⟩ := raised_quiet
      (s := { s with env := EnvInput.quiet :: s.env.tail }) rfl
    refine step_congr_of_raised ⟨hreset, htimesOut.trans hwdte⟩ hquiet rfl ?_
    rw [hraised, State.raised, hin, raiseFlags_timeout, driven_timeout hin]
    rfl
  case resets =>
    have hb : boundary s = .settled (deviceReset .watchdog (s.setEnv s.env.tail)) := by
      simp [boundary, awakeBoundary, ha, htimesOut.trans hwdte, driven_timeout hin, hin,
        raiseFlags_timeout]
    exact ⟨_, step_settled hb, rfl, rfl, List.take_zero, rfl, rfl, rfl, rfl, rfl, rfl,
      resetCommon_intcon .watchdog _, watchdogReset_status _, rfl, rfl, rfl, rfl, rfl, rfl, rfl,
      rfl, rfl, rfl⟩
  case wakes =>
    have hb : boundary s = .settled (watchdogWake (s.setEnv s.env.tail)) := by
      simp [boundary, sleepBoundary, hs, htimesOut.trans hwdte, driven_timeout hin, hin,
        raiseFlags_timeout]
    rw [watchdogWake_eq] at hb
    exact ⟨_, step_settled hb, statusTimePower_to s.status false (s.status.getLsbD 3),
      fun _ => timeOut_getLsbD_other s.status, rfl,
      fun _ hu => step_of_resuming rfl rfl rfl rfl hu⟩

/-- Settles O56: the pins by the state every boundary ends in; flags and counts by that of an
undisturbed one. -/
theorem eventsSetFlagsHardwareClearsNone : Obligations.EventsSetFlagsHardwareClearsNone := by
  intro s u h
  obtain rfl : (boundary s).state = u := by rcases h with h | h | h <;> rw [h] <;> rfl
  obtain ⟨hpinsA, hpinsB⟩ := boundary_pins s
  refine ⟨hpinsA, hpinsB, fun hreset htimeout => ?_⟩
  have hu : s.Undisturbed := ⟨hreset, by rw [State.timesOut, htimeout, Bool.false_and]⟩
  rw [boundary_state_undisturbed hu]
  exact ⟨rfl, rfl, raiseFlags_rbif s.input s.sleeping s.driven,
    raiseFlags_intf s.input s.sleeping s.driven, raiseFlags_t0if s.input s.sleeping s.driven,
    raiseFlags_eeif s.input s.sleeping s.driven⟩

end Sys2Proof.Machine
end

