-- ==== Sys2Proof/Proofs/ResetCycles.lean ====
section
/-! SUPPORT. Which instructions continue at the next address, and a GOTO to its own address
(70_reset_and_hazards.md R182, R183). -/

namespace Sys2Proof.Machine

variable {i : Instr} {s t : State}

/-! ## The program counter and the cycles -/

/-- The two cases of 70_reset_and_hazards.md R182: one cycle where no reason for a second holds. -/
theorem cycles_cases (i : Instr) (s : State) :
    cycles i s = 2 ∨ (cycles i s = 1 ∧ transfersControl i = false ∧ skipTaken i s = false ∧
      modifiesPcl i s = false) := by
  unfold cycles
  split
  case isTrue => exact .inl rfl
  case isFalse h =>
    simp only [Bool.not_eq_true, Bool.or_eq_false_iff] at h
    obtain ⟨⟨hcontrol, hskip⟩, hpcl⟩ := h
    exact .inr ⟨rfl, hcontrol, hskip, hpcl⟩

/-- Where the result does not go to PCL, the program counter is the one after the instruction. -/
theorem Stores.pc_of_not_pcl {f : FileAddr} {d : Dest} {v : Byte} {z dc c : Option Bool}
    {next : ProgAddr} (h : Stores f d v z dc c next s t) (hpcl : storesToPcl f d s = false) :
    t.pc = next :=
  h.pc.trans (if_neg fun e => Bool.eq_false_iff.1 hpcl ((storesToPcl_iff f d s).2 e))

/-- An instruction that does not transfer control, skip, or write PCL continues at pc + 1
(40_byte_oriented.md R83, R85). -/
theorem exec_pc_eq_next (h : exec i s = .next t) (hcontrol : transfersControl i = false)
    (hskip : skipTaken i s = false) (hpcl : modifiesPcl i s = false) : t.pc = s.pc + 1 := by
  match i, h with
  | .addwf f d, h | .andwf f d, h | .comf f d, h | .decf f d, h | .incf f d, h | .iorwf f d, h
  | .movf f d, h | .rlf f d, h | .rrf f d, h | .subwf f d, h | .swapf f d, h | .xorwf f d, h =>
    injection h with h
    subst h
    exact (readModifyStore_stores f d _ s).pc_of_not_pcl hpcl
  | .bcf f _, h | .bsf f _, h =>
    injection h with h
    subst h
    exact (readModifyStore_stores f .f _ s).pc_of_not_pcl hpcl
  | .clrf f, h | .movwf f, h =>
    injection h with h
    subst h
    exact (writeDest_nextPc_stores f .f _ s).pc_of_not_pcl hpcl
  | .decfsz f d, h | .incfsz f d, h =>
    injection h with h
    subst h
    exact ((readModifyStoreSkip_stores f d _ s).pc_of_not_pcl hpcl).trans
      (if_neg (ne_of_beq_false hskip))
  | .btfsc f b, h | .btfss f b, h =>
    injection h with h
    subst h
    obtain ⟨n, hread⟩ := afterRead_eq f s
    rw [hread]
    exact if_neg (Bool.eq_false_iff.1 hskip)
  | .clrw, h | .nop, h | .addlw _, h | .andlw _, h | .clrwdt, h | .iorlw _, h | .movlw _, h
  | .sleep, h | .sublw _, h | .xorlw _, h | .option, h | .trisA, h | .trisB, h =>
    injection h with h
    subst h
    rfl
  | .call _, _ | .goto _, _ | .retfie, _ | .retlw _, _ | .ret, _ => cases hcontrol

/-! ## GOTO to its own address -/

/-- A GOTO to its own address changes nothing. -/
theorem exec_goto_self {k : BitVec 11} (h : s.pc.toNat = s.pclath.toNat / 8 * 2048 + k.toNat) :
    exec (.goto k) s = .next s := by
  rw [exec_goto, ← h, BitVec.ofNat_toNat, BitVec.setWidth_eq]

/-- Its step, awake, with ENV quiet and no interrupt entry due, ends a wake-up and nothing else
(70_reset_and_hazards.md R183). -/
theorem step_goto_self {k : BitVec 11} (ha : s.sleeping = false) (henv : s.env = [])
    (hi : s.entersInterrupt = false) (hd : decode (progRead s.pc s) = .ok (.goto k))
    (hself : s.pc.toNat = s.pclath.toNat / 8 * 2048 + k.toNat) :
    step s = .next (s.setResuming false) := by
  have hq : s.input = EnvInput.quiet := by rw [State.input, henv]; rfl
  have hsame : s.setEnv s.env.tail = s := by
    rw [henv, List.tail_nil, ← henv]
    rfl
  have hb := boundary_quiet_awake hq ha hi
  rw [hsame] at hb
  exact (step_running hb hd).trans (exec_goto_self hself)

end Sys2Proof.Machine
end

