-- ==== Sys2Proof/Proofs/ResetValues.lean ====
section
/-! SUPPORT. A boundary with a reset and nothing else, what an external RESET and power leave, and
what an external RESET that cuts an instruction short spares (70_reset_and_hazards.md R170 to R173,
D27). -/

namespace Sys2Proof.Machine

variable (s : State)

/-- A reset raised without another event at the boundary is all the step does. -/
theorem step_of_reset_alone {s : State} {r : ResetEvent} (h : s.input = { reset := some r }) :
    step s = .next (raisedReset r (s.setEnv s.env.tail)) := by
  have hdriven : s.driven = s.setEnv s.env.tail := by simp [State.driven, h, State.setEnv]
  have hflags (t : State) : raiseFlags { reset := some r } s.sleeping t = t :=
    raiseFlags_quiet s.sleeping t
  exact step_settled (by simp only [boundary, h, hdriven, hflags])

/-- No register holds the inputs of ENV. -/
theorem held_setEnv (r : FileReg) (l : List EnvInput) : held r (s.setEnv l) = held r s := by
  cases r <;> rfl

/-! ## External RESET -/

/-- STATUS after an external RESET (70_reset_and_hazards.md R173): 0001 0uuu in SLEEP, 000u uuuu in
normal operation. -/
theorem externalReset_status :
    (deviceReset .external s).status = BitVec.ofNat 8
      ((if s.sleeping then 16 else s.status.toNat % 32 / 8 * 8) + s.status.toNat % 8) := by
  have htimePower : (resetTimePower .external s).toNat =
      if s.sleeping then 2 else s.status.toNat % 32 / 8 := by
    rw [resetTimePower]
    split
    · rfl
    · rw [toNat_field]
      omega
  refine BitVec.eq_of_toNat_eq ((join_toNat 0#3 (resetTimePower .external s) _).trans ?_)
  rw [htimePower, toNat_field, BitVec.toNat_ofNat]
  split <;> simp <;> omega

/-- An external RESET leaves Z, DC and C. -/
theorem externalReset_flag {n : Nat} (h : n < 3) :
    (deviceReset .external s).status.getLsbD n = s.status.getLsbD n := by
  refine (join_getLsbD n 0#3 (resetTimePower .external s) _).trans ?_
  rw [if_pos h, BitVec.getLsbD_extractLsb', Nat.zero_add, decide_eq_true h, Bool.true_and]

/-- The registers 70_reset_and_hazards.md R172 keeps are neither STATUS nor PCL, and an external
RESET leaves what they hold. -/
theorem held_externalReset {r : FileReg}
    (h : r = .fsr ∨ r = .tmr0 ∨ r = .portA ∨ r = .portB ∨ r = .eedata ∨ r = .eeadr ∨
      ∃ l, r = .gpr l) :
    r ≠ .status ∧ r ≠ .pcl ∧ ∀ s, held r (deviceReset .external s) = held r s := by
  rcases h with rfl | rfl | rfl | rfl | rfl | rfl | ⟨l, rfl⟩ <;>
    exact ⟨nofun, nofun, fun _ => rfl⟩

/-! ## An instruction cut short -/

/-- From `s` to `t` everything but the destinations `x` and the affected flags stays, of W, of the
registers other than PCL, and of Z, DC, C. -/
structure Spares (x : Written) (s t : State) : Prop where
  registers : ∀ r, r ≠ .status → r ≠ .pcl → (∀ f, x.file = some f → target f s ≠ r) →
    held r t = held r s
  w : x.w = false → t.w = s.w
  flags : (∀ f, x.file = some f → target f s ≠ .status) →
    (x.flags.z = none → t.status.getLsbD 2 = s.status.getLsbD 2) ∧
    (x.flags.dc = none → t.status.getLsbD 1 = s.status.getLsbD 1) ∧
    (x.flags.c = none → t.status.getLsbD 0 = s.status.getLsbD 0)

/-- The instruction at pc, cut short or not begun, spares all but its destinations and flags. -/
theorem instructionCut_spares {s : State} {i : Instr} (h : fetch s = .ok i) :
    Spares (writtenBy i) s s.instructionCut := by
  unfold State.instructionCut
  split
  case isTrue =>
    exact ⟨fun _ _ _ _ => rfl, fun _ => rfl, fun _ => ⟨fun _ => rfl, fun _ => rfl, fun _ => rfl⟩⟩
  case isFalse =>
    rw [h]
    exact ⟨cutShort_held (writtenBy i) s, cutShort_w (writtenBy i) s,
      cutShort_flags (writtenBy i) s⟩

/-! ## Power applied -/

/-- STATUS<7:3> after power is applied: bank 0, TO and PD set (70_reset_and_hazards.md R171). -/
theorem powerOnReset_status : (deviceReset .powerOn s).status.extractLsb' 3 5 = 0b00011#5 :=
  calc (deviceReset .powerOn s).status.extractLsb' 3 5
      = (resetCommon .powerOn s).status.extractLsb' 3 5 := BitVec.extractLsb'_append_eq_left
    _ = 0#3 ++ 0b11#2 := BitVec.extractLsb'_append_eq_left
    _ = 0b00011#5 := rfl

/-- INTCON after power is applied: all but RBIF clear. -/
theorem powerOnReset_intcon : (deviceReset .powerOn s).intcon.extractLsb' 1 7 = 0#7 :=
  calc (deviceReset .powerOn s).intcon.extractLsb' 1 7
      = (resetCommon .powerOn s).intcon.extractLsb' 1 7 := BitVec.extractLsb'_append_eq_left
    _ = 0#7 := BitVec.extractLsb'_append_eq_left

/-- EEIF of an EECON1 joined of EEIF, WRERR and the low three bits. -/
theorem join_eeif (eeif wrerr : BitVec 1) (low : BitVec 3) :
    BitVec.getLsbD (w := 5) (eeif ++ wrerr ++ low) 4 = eeif.getLsbD 0 := by
  refine (getLsbD_concat (eeif ++ wrerr) low 4).trans ?_
  rw [getLsbD_concat]
  rfl

/-- EECON1 after power is applied: EEIF clear. -/
theorem powerOnReset_eeif : (deviceReset .powerOn s).eecon1.getLsbD 4 = false :=
  calc (deviceReset .powerOn s).eecon1.getLsbD 4
      = ((resetCommon .powerOn s).eecon1.extractLsb' 4 1).getLsbD 0 := join_eeif ..
    _ = (resetCommon .powerOn s).eecon1.getLsbD 4 := BitVec.getLsbD_extractLsb' ..
    _ = (0#1).getLsbD 0 := join_eeif ..

/-- EECON1 after power is applied: WREN, WR and RD clear. -/
theorem powerOnReset_eecon1_low : (deviceReset .powerOn s).eecon1.extractLsb' 0 3 = 0#3 :=
  calc (deviceReset .powerOn s).eecon1.extractLsb' 0 3
      = (resetCommon .powerOn s).eecon1.extractLsb' 0 3 := BitVec.extractLsb'_append_eq_right
    _ = 0#3 := BitVec.extractLsb'_append_eq_right

end Sys2Proof.Machine
end

