-- ==== Sys2Proof/Proofs/ResetFamily.lean ====
section
/-! PROOFS. The statements of the family 70_reset_and_hazards.md. -/

namespace Sys2Proof.Machine

/-- Settles O42: an instruction of one cycle has no reason to continue elsewhere than at pc + 1. -/
theorem changedPcTakesTwoCycles : Obligations.ChangedPcTakesTwoCycles := by
  intro i s
  obtain ⟨t, h⟩ := exec_completes i s
  refine ⟨t, h, ?_⟩
  rcases cycles_cases i s with htwo | ⟨-, hcontrol, hskip, hpcl⟩
  · exact ⟨fun _ => htwo, fun hone => absurd (htwo.symm.trans hone) (by decide)⟩
  · have hpc := exec_pc_eq_next h hcontrol hskip hpcl
    exact ⟨fun hne => absurd hpc hne, fun _ => hpc⟩

/-- Settles O43: the step of the GOTO ends a wake-up; with none to end, and no interrupt to take,
the same step comes again. -/
theorem gotoItselfIsAFixedPoint : Obligations.GotoItselfIsAFixedPoint := by
  intro s k ha henv hi hd hself
  have hstep := step_goto_self ha henv hi hd hself
  refine ⟨hstep, fun hr => ?notWoken, fun htakes => ?again⟩
  case notWoken => rwa [setResuming_eq_self hr] at hstep
  case again =>
    have hi' : (s.setResuming false).entersInterrupt = false := by
      rw [State.entersInterrupt, show (s.setResuming false).takesInterrupt = false from htakes,
        Bool.false_and]
    exact step_goto_self (s := s.setResuming false) ha henv hi' hd hself

/-- Settles O53: the reset is all the step does; INTCON and STATUS as numbers, the rest by R172. -/
theorem externalResetKeepsAndClears : Obligations.ExternalResetKeepsAndClears := by
  intro s hin
  exact ⟨_, step_of_reset_alone hin, rfl, rfl, deviceReset_entries .external _, rfl, rfl, rfl, rfl,
    rfl, rfl, resetCommon_intcon .external _, externalReset_status _, rfl, rfl, rfl, rfl, rfl, rfl,
    rfl, rfl, rfl, rfl⟩

/-- Settles O54: cutting the instruction short spares what it does not write, and the external RESET
after it keeps the registers of R172, W, Z, DC and C. -/
theorem cutInstructionHarmsItsDestinationsOnly :
    Obligations.CutInstructionHarmsItsDestinationsOnly := by
  intro s i hin _ hd
  have spares : Spares (writtenBy i) (s.setEnv s.env.tail) (s.setEnv s.env.tail).instructionCut :=
    instructionCut_spares hd
  refine ⟨_, step_of_reset_alone hin, rfl, fun r hne hr => ?registers, spares.w, fun hne => ?flags⟩
  case registers =>
    obtain ⟨hstatus, hpcl, hkept⟩ := held_externalReset hr
    calc held r (deviceReset .external (s.setEnv s.env.tail).instructionCut)
        = held r (s.setEnv s.env.tail).instructionCut := hkept _
      _ = held r (s.setEnv s.env.tail) := spares.registers r hstatus hpcl hne
      _ = held r s := held_setEnv s r _
  case flags =>
    obtain ⟨hz, hdc, hc⟩ := spares.flags hne
    exact ⟨fun e => (externalReset_flag _ (by decide)).trans (hz e),
      fun e => (externalReset_flag _ (by decide)).trans (hdc e),
      fun e => (externalReset_flag _ (by decide)).trans (hc e)⟩

/-- Settles O55: the reset is all the step does, and what R171 calls unknown covers no bit stated
here. -/
theorem powerOnRestoresTheStatedValues : Obligations.PowerOnRestoresTheStatedValues := by
  intro s hin
  exact ⟨_, step_of_reset_alone hin, rfl, powerOnReset_status _, deviceReset_entries .powerOn _,
    rfl, powerOnReset_intcon _, rfl, rfl, rfl, powerOnReset_eeif _, powerOnReset_eecon1_low _, rfl,
    rfl, rfl, rfl, rfl⟩

/-- Settles O34: the memories are empty, the stack has its eight slots, none live, and the processor
is neither asleep nor just woken. -/
theorem resetMeetsTheInvariant : Obligations.ResetMeetsTheInvariant :=
  ⟨rfl, rfl, rfl, Nat.zero_le _, nofun, nofun⟩

/-- Settles O35: the fields of the reset state; where no word is listed an address reads as
unprogrammed. -/
theorem resetLeavesTheStatedValues : Obligations.ResetLeavesTheStatedValues :=
  ⟨rfl, rfl, rfl, rfl, rfl, rfl, rfl, rfl, rfl, rfl, rfl, rfl, rfl, rfl, fun _ => rfl⟩

end Sys2Proof.Machine
end
